-- ==== Sys2Proof/Word.lean ====
section
/-! DEFINITION. The unsigned words of the block (spec/00_scope.md R8): every value is an unsigned bit
vector, bit 0 the least significant. There is no signed value anywhere. -/

namespace Sys2Proof

/-- `u8`: a data byte, a table index (R25: every `u8` is a valid table address). -/
abbrev U8 := BitVec 8

/-- `u16`: an accumulator, a seed, a table entry, a result. -/
abbrev U16 := BitVec 16

/-- `u32`: a command word (R42) or a response word (R48). -/
abbrev U32 := BitVec 32

end Sys2Proof
end

