-- ==== Sys2Proof/Machine/Operands.lean ====
section
/-! DEFINITION. Operand forms: the fields of a command word (spec/30_encoding.md R42, R45) and the
two ways a table index is formed (spec/20_memory.md R33). Operands are used as they stand: nothing is
sign-extended, scaled or assembled from scattered bits. -/

namespace Sys2Proof.Machine

/-- `OP = cmd[31:28]` (R42). -/
def opField (w : U32) : BitVec 4 := w.extractLsb' 28 4

/-- `RSV = cmd[27:24]` (R42). -/
def rsvField (w : U32) : BitVec 4 := w.extractLsb' 24 4

/-- `A = cmd[23:8]` (R42). -/
def aField (w : U32) : U16 := w.extractLsb' 8 16

/-- `B = cmd[7:0]` (R42). -/
def bField (w : U32) : U8 := w.extractLsb' 0 8

/-- `cmd = {OP, RSV, A, B}` with `RSV = 0` (R42). -/
def cmdWord (op : BitVec 4) (a : U16) (b : U8) : U32 :=
  op ++ 0#4 ++ a ++ b

/-- The high byte `v[15:8]` (R8). -/
def highByte (v : U16) : U8 := v.extractLsb' 8 8

/-- The low byte `v[7:0]` (R8). -/
def lowByte (v : U16) : U8 := v.extractLsb' 0 8

/-- `{b, 0x00}`: a byte in the high byte of a 16-bit register (R28, R54). -/
def inHighByte (b : U8) : U16 := b ++ 0#8

/-- Direct addressing, `TREAD`: `index = B` (R33 (1)). -/
def directIndex (b : U8) : U8 := b

/-- Direct addressing, GEN's write: `index = GIDX[7:0]` (R33 (1)). -/
def genIndex (gidx : BitVec 9) : U8 := gidx.extractLsb' 0 8

/-- Computed addressing, the engine: `index = a[15:8] ^ b` (R33 (2), R63). -/
def engineIndex (a : U16) (b : U8) : U8 := highByte a ^^^ b

end Sys2Proof.Machine
end

