-- ==== Sys2Proof/Syntax.lean ====
section
/-! DEFINITION. The six commands of the block, one constructor per row of spec/opcode_table.json
(spec/30_encoding.md R43, R44, R46), and the commands as a programmer writes them (R51). -/

namespace Sys2Proof

/-- A decoded command (R46). Field `A` of the word is a `u16` operand, field `B` a `u8` operand (R42);
a field the command does not use has no argument here. -/
inductive Instr where
  /-- `UPDATE acc, byte` (R75). -/
  | update (acc : U16) (byte : U8)
  /-- `SEED seed` (R76). -/
  | seed (seed : U16)
  /-- `FEED byte` (R77). -/
  | feed (byte : U8)
  /-- `READ` (R78). -/
  | read
  /-- `TREAD index` (R62). -/
  | tread (index : U8)
  /-- `STAT` (R81). -/
  | stat
deriving DecidableEq, Repr

/-- A command as written in assembler (R51): its operands are numbers of any size, which may not fit
their field. -/
inductive Source where
  | update (acc byte : Nat)
  | seed (seed : Nat)
  | feed (byte : Nat)
  | read
  | tread (index : Nat)
  | stat
deriving DecidableEq, Repr

end Sys2Proof
end

