-- ==== Sys2Proof/WellFormed.lean ====
section
/-! DEFINITION. Which written commands are well formed (spec/30_encoding.md R51): `acc` and `seed`
must fit 16 bits, `byte` and `index` 8 bits, and a number that does not fit is an error, never a
truncation. A decoded command holds its operands at their widths, so it is always well formed. -/

namespace Sys2Proof

/-- The operand fits field `A` (R51: `acc` and `seed` must fit 16 bits). -/
def fitsA (n : Nat) : Bool := decide (n < 65536)

/-- The operand fits field `B` (R51: `byte` and `index` must fit 8 bits). -/
def fitsB (n : Nat) : Bool := decide (n < 256)

/-- R51: every operand fits its field. -/
def Source.wellFormed : Source → Bool
  | .update acc byte => fitsA acc && fitsB byte
  | .seed a => fitsA a
  | .feed byte => fitsB byte
  | .read => true
  | .tread index => fitsB index
  | .stat => true

/-- The written form of a command. -/
def Instr.source : Instr → Source
  | .update acc byte => .update acc.toNat byte.toNat
  | .seed a => .seed a.toNat
  | .feed byte => .feed byte.toNat
  | .read => .read
  | .tread index => .tread index.toNat
  | .stat => .stat

/-- A command is well formed when its written form is. -/
def Instr.wellFormed (i : Instr) : Bool := i.source.wellFormed

end Sys2Proof
end

