-- ==== Sys2Proof/Decode.lean ====
section
/-! DEFINITION. Decoding, total on all 2^32 words and using nothing but the word (spec/30_encoding.md
R46), and encoding, its inverse on the legal words (R43, R46). -/

namespace Sys2Proof

/-- Why a word is illegal (R47). -/
inductive DecodeError where
  /-- `RSV` is not 0. -/
  | reservedNotZero
  /-- `OP` is 0x0 or 0x7 to 0xF. -/
  | noSuchOpcode
  /-- A field the command does not use is not 0. -/
  | unusedNotZero
deriving DecidableEq, Repr

/-- `c` when the unused field is zero, else the word is illegal (R43, R47). -/
def ifZero {n : Nat} (unused : BitVec n) (c : Instr) : Except DecodeError Instr :=
  if unused = 0 then .ok c else .error .unusedNotZero

/-- The command of a word whose `RSV` is 0 (R46). -/
def decodeOp (w : U32) : Except DecodeError Instr :=
  if Machine.opField w = 1#4 then .ok (.update (Machine.aField w) (Machine.bField w))
  else if Machine.opField w = 2#4 then ifZero (Machine.bField w) (.seed (Machine.aField w))
  else if Machine.opField w = 3#4 then ifZero (Machine.aField w) (.feed (Machine.bField w))
  else if Machine.opField w = 4#4 then ifZero (Machine.aField w ++ Machine.bField w) .read
  else if Machine.opField w = 5#4 then ifZero (Machine.aField w) (.tread (Machine.bField w))
  else if Machine.opField w = 6#4 then ifZero (Machine.aField w ++ Machine.bField w) .stat
  else .error .noSuchOpcode

/-- R46. -/
def decode (w : U32) : Except DecodeError Instr :=
  if Machine.rsvField w = 0#4 then decodeOp w else .error .reservedNotZero

/-- The word of a command (R43): unused fields and `RSV` are zero. -/
def encode : Instr → U32
  | .update acc byte => Machine.cmdWord 1#4 acc byte
  | .seed a => Machine.cmdWord 2#4 a 0#8
  | .feed byte => Machine.cmdWord 3#4 0#16 byte
  | .read => Machine.cmdWord 4#4 0#16 0#8
  | .tread index => Machine.cmdWord 5#4 0#16 index
  | .stat => Machine.cmdWord 6#4 0#16 0#8

/-- The command whose bits are `w`, numbered as spec/opcode_table.json numbers them; bits at `nbits`
and above are 0. A command is one 32-bit number and has no byte order (R30, R42; log 15). -/
def decodeTableWord (nbits w : Nat) : Option Instr :=
  match decode (BitVec.ofNat 32 (w % 2 ^ nbits)) with
  | .ok i => some i
  | .error _ => none

end Sys2Proof
end

