-- ==== Sys2Proof/Machine/Crc.lean ====
section
/-! DEFINITION. The pure functions of layer F: `lfsr1` (spec/40_table.md R53), `gen` (R54), `upd`
(spec/41_engine.md R63) and `compute` (R67). They are total and raise nothing (spec/60_exceptions.md
R84). No reflection and no final exclusive-or is applied anywhere (R28, R72). -/

namespace Sys2Proof.Machine

/-- `POLY`: x^16 + x^12 + x^5 + 1, the x^16 term implicit (spec/00_scope.md R6). -/
def poly : U16 := 0x1021#16

/-- One shift-and-feedback step, most significant bit first: the top bit is tested before the shift
(R53). -/
def lfsr1 (r : U16) : U16 :=
  if r.msb then (r <<< 1) ^^^ poly else r <<< 1

/-- `n` steps of `lfsr1`, first step first (R54, step 1b). -/
def lfsrSteps : Nat → U16 → U16
  | 0, r => r
  | n + 1, r => lfsrSteps n (lfsr1 r)

/-- The table entry function `gen(b) = lfsr1^8({b, 0x00})` (R54). -/
def gen (b : U8) : U16 := lfsrSteps 8 (inHighByte b)

/-- The feedback half of the engine: the accumulator shifted left by 8, exclusive-or the entry read
(R63, step 2). -/
def combine (a entry : U16) : U16 := (a <<< 8) ^^^ entry

/-- The update function over a complete table: `upd(a, b) = {a[7:0], 0x00} ^ gen(a[15:8] ^ b)`
(R63 with the table invariant R55). -/
def upd (a : U16) (b : U8) : U16 := combine a (gen (engineIndex a b))

/-- The fold of `upd` over a byte sequence, left to right (R67). -/
def compute (seed : U16) : List U8 → U16
  | [] => seed
  | b :: bs => compute (upd seed b) bs

end Sys2Proof.Machine
end

