-- ==== Sys2Proof/Machine/Agents.lean ====
section
/-! DEFINITION. The three agents and what each can do in one turn (spec/00_scope.md R5,
spec/70_reset_and_hazards.md R97, R101). -/

namespace Sys2Proof.Machine

/-- What HOST can do to the block; it has no other access (R101). -/
inductive HostAction where
  /-- Append one word, any of the 2^32, to the tail of `CMDQ` (R22, R101). -/
  | send (w : U32)
  /-- Remove the word at the head of `RSPQ` (R22). -/
  | take
  /-- Assert the reset input `RST` (R97). -/
  | assertRst
  /-- Release the reset input `RST` (R97). -/
  | releaseRst
deriving DecidableEq, Repr, Inhabited

/-- One turn of one agent (R5). -/
inductive Turn where
  /-- GEN may take its step (R58). -/
  | gen
  /-- EXEC may execute the command at the head of `CMDQ`, or hold (R9, R90). -/
  | exec
  /-- HOST acts (R101). -/
  | host (a : HostAction)
deriving DecidableEq, Repr, Inhabited

end Sys2Proof.Machine
end

