-- ==== Sys2Proof/Config.lean ====
section
/-! DEFINITION. What an implementation fixes and the model's free values: the parameter `TABLE_INIT`
(spec/00_scope.md R7) and the free interleaving of the agents' turns (R5, spec/20_memory.md R36). -/

namespace Sys2Proof

/-- `TABLE_INIT` (R7): how the table comes to hold its values. -/
inductive TableInit where
  /-- GEN fills the table after reset (R58). -/
  | generated
  /-- The table holds the 256 constants from reset (R60). -/
  | literal
deriving DecidableEq, Repr

/-- `TABLE_INIT` of this machine: the spec's default, `GENERATED` (R7). DESIGN CHOICE, unsafe for a
`LITERAL` block; `Machine.resetIn` and `Machine.stepIn` take the parameter (log 3). -/
def Config.tableInit : TableInit := .generated

/-- FREE VALUE: whose turn comes when the plan fixes none, and what HOST then does. R5 and R36 allow
any interleaving, R101 any action of HOST. DESIGN CHOICE of form, safe (log 1). -/
opaque Config.turn : Nat → Machine.Turn

end Sys2Proof
end

