-- ==== Sys2Proof/Machine/State.lean ====
section
/-! DEFINITION. The state of the block as plain data (spec/10_state.md R10), the reasons a step can
stop, and the state right after reset (R24, spec/70_reset_and_hazards.md R97). -/

namespace Sys2Proof.Machine

/-- `TABLE` (R12, R25): pairs of an index and its 16-bit entry. Canonical form: indexes strictly
rising and below 256. An index that is not listed holds no value. -/
abbrev Table := List (Nat × U16)

/-- Why the MODEL stops. Neither reason is an error of the block (its errors are responses, R86): each
stands for the read of a place that holds no value, which R24 says no rule ever does. Both are safe. -/
inductive Fault where
  /-- Raised by a table read (`UPDATE`, `FEED`, `TREAD`) that finds `READY == 1` and the entry without a
  value. Safe; unreachable by R12 (log 5). -/
  | entryHoldsNoValue
  /-- Raised by `FEED` and `READ` when `ACCV == 1` and `ACC` holds no value. Safe; unreachable by R19
  (log 5). -/
  | accHoldsNoValue
deriving DecidableEq, Repr

/-- Why the model has no meaning for a command. -/
inductive Refusal where
  /-- Raised by an arm of `exec` whose command has no meaning yet; no arm does. Safe. -/
  | notModelled (mnemonic : String)
deriving DecidableEq, Repr

/-- The state. The first seven fields are the whole state R10 gives the block; `rst` is the level of
its reset input (R97); `plan` and `tick` are the model's own, for the order of turns (log 1, 2). -/
structure State where
  /-- `TABLE[0..255]` (R12). -/
  table : Table
  /-- `ACC`: a `u16`, or no value (R13, R24). -/
  acc : Option U16
  /-- `ACCV`: 1 when `ACC` holds a value (R19). -/
  accv : Bool
  /-- `ERR`: sticky, 1 when any command since reset ended in an error (R19). -/
  err : Bool
  /-- `GIDX`: the generator's next index, 0 to 256 (R16). -/
  gidx : BitVec 9
  /-- `CMDQ`: words sent and not yet executed, head first (R22). -/
  cmdq : List U32
  /-- `RSPQ`: responses produced and not yet removed, head first (R22). -/
  rspq : List U32
  /-- The reset input `RST` is asserted (R97). -/
  rst : Bool
  /-- MODEL's own: the turns already fixed to come next, oldest first (log 2). -/
  plan : List Turn
  /-- MODEL's own: how many turns have been taken (log 1). -/
  tick : Nat
deriving DecidableEq, Repr

/-- The state at the release of `RST` for each value of `TABLE_INIT` (R24). -/
def resetIn : TableInit → State
  | .generated =>
    { table := [], acc := none, accv := false, err := false, gidx := 0#9, cmdq := [], rspq := [],
      rst := false, plan := [], tick := 0 }
  | .literal =>
    { table := romTable, acc := none, accv := false, err := false, gidx := 256#9, cmdq := [],
      rspq := [], rst := false, plan := [], tick := 0 }

/-- The machine right after reset (R24, R97). -/
def State.reset : State := resetIn Config.tableInit

end Sys2Proof.Machine
end

