-- ==== Sys2Proof/Machine/Flags.lean ====
section
/-! DEFINITION. The flags and the status register (spec/10_state.md R17, R19, R20). `READY` and
`STATUS` are functions of the state, not state. There is no arithmetic condition code (R19). -/

namespace Sys2Proof.Machine

/-- `READY`: the whole table holds values, `GIDX == 256` (R17). -/
def State.ready (s : State) : Bool := s.gidx == 256#9

/-- `STATUS = {0[15:3], ERR, ACCV, READY}` (R20). -/
def State.status (s : State) : U16 :=
  0#13 ++ BitVec.ofBool s.err ++ BitVec.ofBool s.accv ++ BitVec.ofBool s.ready

end Sys2Proof.Machine
end

