-- ==== Sys2Proof/Machine/Response.lean ====
section
/-! DEFINITION. The response word and its status codes (spec/30_encoding.md R48, R49). -/

namespace Sys2Proof.Machine

/-- `ST` of a response. Code 3 is never produced (R49), so it has no constructor (93 U9). -/
inductive Status where
  | ok
  | illegal
  | noSeed
deriving DecidableEq, Repr

/-- The 2-bit code of a status (R49). -/
def Status.code : Status → BitVec 2
  | .ok => 0#2
  | .illegal => 1#2
  | .noSeed => 2#2

/-- `rsp = {0[13:0], ST, RES}` (R48). -/
def rspWord (st : Status) (res : U16) : U32 :=
  0#14 ++ st.code ++ res

/-- `ST = rsp[17:16]` (R48). -/
def stField (r : U32) : BitVec 2 := r.extractLsb' 16 2

/-- `RES = rsp[15:0]` (R48). -/
def resField (r : U32) : U16 := r.extractLsb' 0 16

/-- The 14 bits `rsp[31:18]`, always 0 (R48). -/
def topField (r : U32) : BitVec 14 := r.extractLsb' 18 14

end Sys2Proof.Machine
end

