-- ==== Sys2Proof/Machine/Ops.lean ====
section
/-! DEFINITION. The named operations over the table, the accumulator and the channels: table access
(spec/20_memory.md R27, R32), `respond` and `hold` (spec/00_scope.md R8, R9), raising an error
(spec/60_exceptions.md R87, R88, R91) and the checks of R90. A meaning is written over these. -/

namespace Sys2Proof.Machine

/-- The answer of a meaning. -/
abbrev Answer := Host.Outcome State Fault Refusal

/-- `MemRead(i, 2)`: the whole entry, or `none` where the entry holds no value (R12, R27). -/
def Table.read : Table → Nat → Option U16
  | [], _ => none
  | (k, v) :: rest, i => if k = i then some v else Table.read rest i

/-- `MemWrite(i, 2, v)`, one indivisible write of one entry (R27, R32), keeping the canonical form. -/
def Table.write : Table → Nat → U16 → Table
  | [], i, v => [(i, v)]
  | (k, x) :: rest, i, v =>
    if i < k then (i, v) :: (k, x) :: rest
    else if i = k then (i, v) :: rest
    else (k, x) :: Table.write rest i v

/-- Indexes strictly rising, each at least `lo` and below 256. -/
def Table.wfFrom : Nat → Table → Bool
  | _, [] => true
  | lo, (k, _) :: rest => decide (lo ≤ k) && decide (k < 256) && Table.wfFrom (k + 1) rest

/-- The canonical form of the table (R25: the index space is 0 to 255). -/
def Table.wf (t : Table) : Bool := Table.wfFrom 0 t

/-- Read entry `i` of `TABLE`; every `u8` is a valid address (R25). -/
def State.entry (s : State) (i : U8) : Option U16 := Table.read s.table i.toNat

/-- `respond(st, res)`: append the response word and end the command, which leaves the head of `CMDQ`
(R8, R9, R22; log 7). -/
def respond (st : Status) (res : U16) (s : State) : State :=
  { s with cmdq := s.cmdq.tail, rspq := s.rspq ++ [rspWord st res] }

/-- `hold`: the command is not executed, stays at the head of `CMDQ`, and nothing changes (R9, R18). -/
def hold (s : State) : State := s

/-- The two errors of the command port (R86). -/
inductive PortError where
  /-- The word spells no command (R87). -/
  | illegal
  /-- `FEED` or `READ` with `ACCV == 0` (R88). -/
  | noSeed
deriving DecidableEq, Repr

/-- The status an error answers with (R86). -/
def errorStatus : PortError → Status
  | .illegal => .illegal
  | .noSeed => .noSeed

/-- `raise e`: `ERR <- 1` and one response with `RES = 0`; nothing else (R87, R88, R91). -/
def raise (e : PortError) (s : State) : State :=
  respond (errorStatus e) 0#16 { s with err := true }

/-- R90 step 3: hold while `READY == 0`, else go on. -/
def whenReady (s : State) (k : Answer) : Answer :=
  if s.ready then k else .next (hold s)

/-- R90 step 2 and the read of `ACC`: NoSeed while `ACCV == 0` (R88), else go on with its value. -/
def withAcc (s : State) (k : U16 → Answer) : Answer :=
  if s.accv then
    match s.acc with
    | some a => k a
    | none => .fault .accHoldsNoValue
  else .next (raise .noSeed s)

/-- One table read (R32), going on with the entry. -/
def withEntry (s : State) (i : U8) (k : U16 → Answer) : Answer :=
  match s.entry i with
  | some v => k v
  | none => .fault .entryHoldsNoValue

/-- `upd(a, b)` as the engine computes it: one table read at `a[15:8] ^ b`, then shift and feedback
(R63). -/
def withUpd (s : State) (a : U16) (b : U8) (k : U16 → Answer) : Answer :=
  withEntry s (engineIndex a b) fun e => k (combine a e)

end Sys2Proof.Machine
end

