-- ==== Sys2Proof/Machine/EngineFamily.lean ====
section
/-! DEFINITION. The engine family (spec/41_engine.md): `UPDATE` (R75), `SEED` (R76), `FEED` (R77) and
`READ` (R78). -/

namespace Sys2Proof.Machine

/-- `UPDATE acc, byte` (R75): hold while `READY == 0`, then answer `upd(A, B)`; no state is written,
`ACC` is not read. -/
def execUpdate (acc : U16) (byte : U8) (s : State) : Answer :=
  whenReady s (withUpd s acc byte fun v => .next (respond .ok v s))

/-- `SEED seed` (R76): load the accumulator; never holds, does not clear `ERR`. -/
def execSeed (seed : U16) (s : State) : Answer :=
  .next (respond .ok seed { s with acc := some seed, accv := true })

/-- `FEED byte` (R77): NoSeed before the hold (R90); then `ACC <- upd(ACC, B)` and answer the new
value. -/
def execFeed (byte : U8) (s : State) : Answer :=
  withAcc s fun a => whenReady s (withUpd s a byte fun v => .next (respond .ok v { s with acc := some v }))

/-- `READ` (R78): NoSeed, or answer the accumulator; never holds, writes nothing. -/
def execRead (s : State) : Answer :=
  withAcc s fun a => .next (respond .ok a s)

end Sys2Proof.Machine
end

