-- ==== Sys2Proof/Machine/SystemFamily.lean ====
section
/-! DEFINITION. The system family (spec/42_system.md): `STAT` (R81). -/

namespace Sys2Proof.Machine

/-- `STAT` (R81): answer the status before this command; never holds, clears nothing. -/
def execStat (s : State) : Answer :=
  .next (respond .ok s.status s)

end Sys2Proof.Machine
end

