-- ==== Sys2Proof/Machine/TableFamily.lean ====
section
/-! DEFINITION. The table family (spec/40_table.md): GEN's step (R58, R59) and `TREAD` (R62). -/

namespace Sys2Proof.Machine

/-- GEN's step, enabled exactly when `GIDX < 256` (R58): write one entry and advance the index. Where
it is not enabled GEN has no step (R59). -/
def genStep (s : State) : State :=
  if s.gidx.toNat < 256 then
    { s with
      table := Table.write s.table (genIndex s.gidx).toNat (gen (genIndex s.gidx))
      gidx := s.gidx + 1#9 }
  else s

/-- `TREAD index` (R62): hold while `READY == 0`, then answer the entry; no state is written. -/
def execTread (index : U8) (s : State) : Answer :=
  whenReady s (withEntry s (directIndex index) fun v => .next (respond .ok v s))

end Sys2Proof.Machine
end

