-- ==== Sys2Proof/Machine/Dispatch.lean ====
section
/-! DEFINITION. One arm per command (spec/42_system.md R83), each a direct call of its meaning. -/

namespace Sys2Proof.Machine

def exec (i : Instr) (s : State) : Host.Outcome State Fault Refusal :=
  match i with
  | .update acc byte => Sys2Proof.Machine.execUpdate acc byte s
  | .seed seed => Sys2Proof.Machine.execSeed seed s
  | .feed byte => Sys2Proof.Machine.execFeed byte s
  | .read => Sys2Proof.Machine.execRead s
  | .tread index => Sys2Proof.Machine.execTread index s
  | .stat => Sys2Proof.Machine.execStat s

end Sys2Proof.Machine
end

