-- ==== Sys2Proof/Machine/Turns.lean ====
section
/-! DEFINITION. One turn of each agent (spec/00_scope.md R5): EXEC's judgement of a word
(spec/60_exceptions.md R90), HOST's actions and reset (spec/70_reset_and_hazards.md R97, R101), and
whose turn comes next (log 1, 2). -/

namespace Sys2Proof.Machine

/-- `execute(w)` (R90): Illegal first; a legal command is then judged by its own meaning. -/
def executeWord (w : U32) (s : State) : Answer :=
  match decode w with
  | .ok i => exec i s
  | .error _ => .next (raise .illegal s)

/-- EXEC's turn (R22): execute the head of `CMDQ`; with an empty `CMDQ` EXEC has no step. -/
def execTurn (s : State) : Answer :=
  match s.cmdq with
  | [] => .next s
  | w :: _ => executeWord w s

/-- The state at the release of `RST` (R97, R99): the reset values, pending commands and responses
discarded. The order of turns is not the block's, so it goes on. -/
def releaseReset (mode : TableInit) (s : State) : State :=
  { resetIn mode with plan := s.plan, tick := s.tick }

/-- HOST's turn while `RST` is not asserted (R22, R97, R101). -/
def hostTurn : HostAction → State → State
  | .send w, s => { s with cmdq := s.cmdq ++ [w] }
  | .take, s => { s with rspq := s.rspq.tail }
  | .assertRst, s => { s with rst := true }
  | .releaseRst, s => s

/-- One turn. While `RST` is asserted no agent steps, and only its release changes anything (R97;
log 6). -/
def takeTurn (mode : TableInit) (t : Turn) (s : State) : Answer :=
  if s.rst then
    match t with
    | .host .releaseRst => .next (releaseReset mode s)
    | _ => .next s
  else
    match t with
    | .gen => .next (genStep s)
    | .exec => execTurn s
    | .host a => .next (hostTurn a s)

/-- Whose turn it is: the head of the plan, or else a free value (log 1, 2). -/
def State.turn (pick : Nat → Turn) (s : State) : Turn :=
  match s.plan with
  | t :: _ => t
  | [] => pick s.tick

/-- The turn is used up. -/
def State.turnTaken (s : State) : State :=
  { s with plan := s.plan.tail, tick := s.tick + 1 }

/-- One step of a block with parameter `TABLE_INIT = mode` whose unplanned turns are `pick`. -/
def stepIn (mode : TableInit) (pick : Nat → Turn) (s : State) : Answer :=
  takeTurn mode (s.turn pick) s.turnTaken

/-- Puts a command where EXEC takes its next one, and makes the next turn EXEC's, with `RST` not
asserted (log 13). -/
def placeCommand (w : U32) (s : State) : State :=
  { s with cmdq := w :: s.cmdq, plan := .exec :: s.plan, rst := false }

end Sys2Proof.Machine
end

