-- ==== Sys2Proof/Machine/Assembler.lean ====
section
/-! DEFINITION. The assembler's notation of spec/30_encoding.md R51: a mnemonic in capitals, operands
separated by commas, numbers in decimal or in hexadecimal with `0x`, `;` before a comment, one command
a line. Lines are lists of characters. What R51 leaves open of the text is in log 17. -/

namespace Sys2Proof.Machine

/-- Why a line is not a command. -/
inductive AsmError where
  /-- The line does not spell a command with its operands. -/
  | notACommand
  /-- An operand does not fit its field: an error, not a truncation (R51). -/
  | doesNotFit
deriving DecidableEq, Repr

/-- A blank. -/
def isBlank (c : Char) : Bool := c == ' ' || c == '\t'

/-- `;` starts a comment (R51). -/
def withoutComment (l : List Char) : List Char := l.takeWhile fun c => c != ';'

/-- The text between its first and last characters that are not blanks. -/
def trimmed (l : List Char) : List Char :=
  ((l.dropWhile isBlank).reverse.dropWhile isBlank).reverse

/-- The pieces of a text between its commas. -/
def atCommas : List Char → List (List Char)
  | [] => [[]]
  | c :: cs =>
    if c = ',' then [] :: atCommas cs
    else
      match atCommas cs with
      | [] => [[c]]
      | p :: ps => (c :: p) :: ps

/-- The value of a digit below `base`. -/
def digitValue (base : Nat) (c : Char) : Option Nat :=
  let n := c.toNat
  let v := if 48 ≤ n ∧ n ≤ 57 then n - 48
    else if 65 ≤ n ∧ n ≤ 70 then n - 55
    else if 97 ≤ n ∧ n ≤ 102 then n - 87
    else base
  if v < base then some v else none

/-- The digits of a number, `acc` the value of those read. -/
def digits (base : Nat) : Nat → List Char → Option Nat
  | acc, [] => some acc
  | acc, c :: cs => (digitValue base c).bind fun v => digits base (acc * base + v) cs

/-- A number: hexadecimal with `0x`, else decimal; at least one digit (R51). -/
def parseNumber : List Char → Option Nat
  | [] => none
  | '0' :: 'x' :: cs => if cs = [] then none else digits 16 0 cs
  | cs => digits 10 0 cs

/-- The operands of a command, in the order R51 gives. -/
def parseOperands (l : List Char) : Option (List Nat) :=
  if l = [] then some [] else (atCommas l).mapM fun p => parseNumber (trimmed p)

/-- The command a mnemonic and its operands spell (R51). -/
def spell (mnemonic : List Char) (operands : List Nat) : Option Source :=
  if mnemonic = ['U', 'P', 'D', 'A', 'T', 'E'] then
    match operands with | [a, b] => some (.update a b) | _ => none
  else if mnemonic = ['S', 'E', 'E', 'D'] then
    match operands with | [a] => some (.seed a) | _ => none
  else if mnemonic = ['F', 'E', 'E', 'D'] then
    match operands with | [b] => some (.feed b) | _ => none
  else if mnemonic = ['R', 'E', 'A', 'D'] then
    match operands with | [] => some .read | _ => none
  else if mnemonic = ['T', 'R', 'E', 'A', 'D'] then
    match operands with | [b] => some (.tread b) | _ => none
  else if mnemonic = ['S', 'T', 'A', 'T'] then
    match operands with | [] => some .stat | _ => none
  else none

/-- The command a trimmed line spells. -/
def parseCommand (l : List Char) : Option Source :=
  (parseOperands (trimmed (l.dropWhile fun c => !isBlank c))).bind
    (spell (l.takeWhile fun c => !isBlank c))

/-- The decoded command of a written one, where its operands fit (R51). -/
def assembleSource (c : Source) : Option Instr :=
  if c.wellFormed then
    some (match c with
      | .update a b => .update (BitVec.ofNat 16 a) (BitVec.ofNat 8 b)
      | .seed a => .seed (BitVec.ofNat 16 a)
      | .feed b => .feed (BitVec.ofNat 8 b)
      | .read => .read
      | .tread b => .tread (BitVec.ofNat 8 b)
      | .stat => .stat)
  else none

/-- One line: its command word, nothing for a line that is blank or only a comment, or an error. -/
def assembleLine (line : List Char) : Except AsmError (Option U32) :=
  if trimmed (withoutComment line) = [] then .ok none
  else
    match parseCommand (trimmed (withoutComment line)) with
    | none => .error .notACommand
    | some c =>
      match assembleSource c with
      | none => .error .doesNotFit
      | some i => .ok (some (encode i))

/-- A hexadecimal digit, capitals (R8). -/
def hexDigit (n : Nat) : Char := Char.ofNat (if n < 10 then 48 + n else 55 + n)

/-- A `u16` as R8 writes it, `0x` and four digits. -/
def hex16 (v : U16) : List Char :=
  ['0', 'x', hexDigit (v.toNat / 4096), hexDigit (v.toNat / 256 % 16), hexDigit (v.toNat / 16 % 16),
    hexDigit (v.toNat % 16)]

/-- The name of a status (R49). -/
def statusName : Status → List Char
  | .ok => ['O', 'K']
  | .illegal => ['I', 'L', 'L', 'E', 'G', 'A', 'L']
  | .noSeed => ['N', 'O', 'S', 'E', 'E', 'D']

/-- A response as R51 writes it, `-> ST:RES`. -/
def responseText (st : Status) (res : U16) : List Char :=
  ['-', '>', ' '] ++ statusName st ++ [':'] ++ hex16 res

end Sys2Proof.Machine
end

