-- ==== Sys2Proof/Machine/Pseudo.lean ====
section
/-! DEFINITION. The pseudo-operations of spec/30_encoding.md R52, `crc16_update`, `COMPUTE` and the host
procedure `COMPUTEX`: the commands each expands to, and the value each has when HOST carries it out on
the machine and waits for the responses (the order of waiting: log 18; the responses stay in `RSPQ`: log
19). -/

namespace Sys2Proof.Machine

/-! ## The expansions -/

/-- `crc16_update(acc, byte)` is the command `UPDATE acc, byte` (R52). -/
def crc16Update (acc : U16) (byte : U8) : Instr := .update acc byte

/-- `COMPUTE seed, b0, ..., b(n-1)` expands to `SEED seed`; the `FEED`s; `READ` (R52). -/
def computeCommands (seed : U16) (bs : List U8) : List Instr :=
  .seed seed :: (bs.map Instr.feed ++ [.read])

/-- The ASCII code of a character; none beyond ASCII (R52). -/
def asciiByte (c : Char) : Option U8 :=
  if c.toNat < 128 then some (BitVec.ofNat 8 c.toNat) else none

/-- The ASCII codes of a text's characters, in order (R52). -/
def asciiBytes (text : List Char) : Option (List U8) := text.mapM asciiByte

/-- `COMPUTE seed, "text"` is `COMPUTE` over the ASCII codes of the text (R52). -/
def computeTextCommands (seed : U16) (text : List Char) : Option (List Instr) :=
  (asciiBytes text).map (computeCommands seed)

/-! ## HOST sends and waits -/

/-- HOST sends the words one after the other (R22, R101). It has no procedure while `RST` is asserted
(R97). -/
def sendAll (mode : TableInit) : List U32 → State → Option State
  | [], s => if s.rst then none else some s
  | w :: ws, s =>
    match takeTurn mode (.host (.send w)) s with
    | .next t => sendAll mode ws t
    | _ => none

/-- HOST waits until `CMDQ` is empty, so that every word sent is answered (R22, R102). EXEC takes turn
after turn; where its command holds, GEN takes a turn before EXEC judges the command again (R18; log
18). The first argument bounds the number of EXEC's turns. -/
def awaitAnswers (mode : TableInit) : Nat → State → Option State
  | 0, _ => none
  | n + 1, s =>
    if s.cmdq = [] then some s
    else
      match takeTurn mode .exec s with
      | .next t =>
        if t.cmdq = s.cmdq then
          match takeTurn mode .gen t with
          | .next u => awaitAnswers mode n u
          | _ => none
        else awaitAnswers mode n t
      | _ => none

/-- HOST sends words and waits for all the answers. Every EXEC turn executes a command or holds, and at
most 256 GEN turns lift every hold (R18), so the bound is no limit. -/
def submitAll (mode : TableInit) (ws : List U32) (s : State) : Option State :=
  (sendAll mode ws s).bind fun t => awaitAnswers mode (t.cmdq.length + 257) t

/-- HOST takes a response for a value only where its `ST` is OK (R49, R105). -/
def okValue (r : U32) : Option U16 := if stField r = 0#2 then some (resField r) else none

/-- HOST submits words and has the value of the last response, which answers the last word (R22). HOST
reads the response where it stands, at the tail of `RSPQ`, and removes none: whether it removes what it
reads is left open by R52 and R102. DESIGN CHOICE (log 19). -/
def submitForValue (mode : TableInit) (ws : List U32) (s : State) : Option (State × U16) :=
  (submitAll mode ws s).bind fun t => (t.rspq.getLast?.bind okValue).map fun v => (t, v)

/-! ## The values -/

/-- `crc16_update(acc, byte)`: "the value is the response's `RES`" (R52). -/
def crc16UpdateValue (mode : TableInit) (acc : U16) (byte : U8) (s : State) : Option (State × U16) :=
  submitForValue mode [encode (crc16Update acc byte)] s

/-- `COMPUTE seed, b0, ..., b(n-1)`: "the value is the `RES` of the response to `READ`" (R52). -/
def computeValue (mode : TableInit) (seed : U16) (bs : List U8) (s : State) : Option (State × U16) :=
  submitForValue mode ((computeCommands seed bs).map encode) s

/-- `COMPUTE seed, "text"` (R52). -/
def computeTextValue (mode : TableInit) (seed : U16) (text : List Char) (s : State) :
    Option (State × U16) :=
  (asciiBytes text).bind fun bs => computeValue mode seed bs s

/-- `COMPUTEX` (R52): a chain of `crc16_update`s, each taking its accumulator from the previous value;
the seed itself for no bytes, when no command is sent. Before each `UPDATE` any other words, from any
caller, may be submitted (R80). -/
def computeX (mode : TableInit) : U16 → List (List U32 × U8) → State → Option (State × U16)
  | r, [], s => some (s, r)
  | r, (others, b) :: rest, s =>
    (submitAll mode others s).bind fun t =>
      (crc16UpdateValue mode r b t).bind fun p => computeX mode p.2 rest p.1

end Sys2Proof.Machine
end

