-- ==== Sys2Proof/Safety.lean ====
section
/-! DEFINITION. The terms claims use: the invariant of the block, legal responses, the end of a run,
fair orders of turns, and the streams of commands that use `ACC`. -/

namespace Sys2Proof.Machine

/-- R12, R55: the entries that hold a value are exactly those below `GIDX`, and each holds `gen(i)`. -/
def TableFilled (s : State) : Prop :=
  ∀ i : U8, s.entry i = if i.toNat < s.gidx.toNat then some (gen i) else none

/-- The invariant of the block: the table is in canonical form and filled below `GIDX` (R12, R55),
`GIDX` is at most 256 (R16), and `ACCV` says whether `ACC` holds a value (R10, R19). -/
structure BlockInv (s : State) : Prop where
  tableWf : Table.wf s.table = true
  tableFilled : TableFilled s
  gidxLe : s.gidx.toNat ≤ 256
  accvIff : s.accv = s.acc.isSome

/-- A response the block may produce (R48, R49): bits 31:18 are 0, `ST` is not 3, and `RES` is 0 unless
`ST` is OK. -/
def LegalResponse (r : U32) : Prop :=
  topField r = 0#14 ∧ (stField r = 0#2 ∨ ((stField r = 1#2 ∨ stField r = 2#2) ∧ resField r = 0#16))

/-- Every response waiting in `RSPQ` is one the block may produce. -/
def ResponsesLegal (s : State) : Prop := ∀ r ∈ s.rspq, LegalResponse r

/-- R102: the run is over. (Every executed command leaves `CMDQ` with its response, so an empty `CMDQ`
says that every command sent has been answered.) -/
def RunOver (mode : TableInit) (s : State) : Prop :=
  s.cmdq = [] ∧ (mode = .generated → s.gidx = 256#9)

/-- The machine of a block with parameter `mode` whose unplanned turns are `pick`. -/
def coreIn (mode : TableInit) (pick : Nat → Turn) : Host.Core :=
  { State := State, Fault := Fault, Refusal := Refusal, step := stepIn mode pick, reset := resetIn mode }

/-- `n` steps of such a block. -/
def runIn (mode : TableInit) (pick : Nat → Turn) (n : Nat) (s : State) : Answer :=
  Host.Core.run (coreIn mode pick) n s

/-- The turn `t` comes again and again: fairness to an agent whose step stays enabled (R107). -/
def Recurs (pick : Nat → Turn) (t : Turn) : Prop := ∀ n, ∃ m, n ≤ m ∧ pick m = t

/-- HOST takes no turn in the list. -/
def HostQuiet (ts : List Turn) : Prop := ∀ t ∈ ts, t = .gen ∨ t = .exec

/-- The state an answer holds, if it is a next state. -/
def nextState : Answer → Option State
  | .next s => some s
  | _ => none

/-- The commands of a stream on `ACC`: `SEED`, `FEED`, `READ` (R79). -/
def streamCommand (w : U32) : Option Instr :=
  match decode w with
  | .ok (.seed a) => some (.seed a)
  | .ok (.feed b) => some (.feed b)
  | .ok .read => some .read
  | _ => none

/-- Among the responses to the words, in order, those that answer stream commands (R22: the k-th
response answers the k-th command). -/
def streamAnswers (ws rs : List U32) : List U32 :=
  ((ws.zip rs).filter fun p => (streamCommand p.1).isSome).map Prod.snd

/-- What R79 says a stream is answered: the seed, `compute` of each nonempty beginning of the bytes,
and the whole `compute` for the `READ`. -/
def streamExpected (seed : U16) (bs : List U8) : List U32 :=
  ((List.range (bs.length + 1)).map fun k => rspWord .ok (compute seed (bs.take k))) ++
    [rspWord .ok (compute seed bs)]

end Sys2Proof.Machine
end

