-- ==== Sys2Proof/Certificates/Slice0/Obligations.lean ====
section
/-! DEFINITION. What is claimed of the block, from the numbered rules of spec/. A next state is written
as the state before with the fields that change, so each such equation is the command's frame too:
every field it does not name is unchanged, every entry of the table among them. `BlockInv` is the invariant
of Safety.lean, itself a claim (`BlockInvHoldsAfterReset`, `StepKeepsBlockInv`). -/

open Sys2Proof Sys2Proof.Machine

/-! ## Encoding (spec/30_encoding.md) -/

/-- R46: decoding the word of a well-formed command gives the command back, with every operand at every
value. -/
def Obligations.DecodeOfEncode : Prop :=
  ∀ i : Instr, i.wellFormed = true → decode (encode i) = .ok i

/-- R46: encoding is the inverse on the legal words, `encode(decode(w)) == w`. -/
def Obligations.EncodeOfDecode : Prop :=
  ∀ (w : U32) (i : Instr), decode w = .ok i → encode i = w

/-- R46, the counts: 2^24 words spell `UPDATE`, 2^16 `SEED`, 2^8 `FEED`, one `READ`, 2^8 `TREAD`, one
`STAT`; all other words are illegal. -/
def Obligations.LegalWordCounts : Prop :=
  Nat.card (Subtype fun w : U32 => ∃ a b, decode w = .ok (.update a b)) = 2 ^ 24 ∧
  Nat.card (Subtype fun w : U32 => ∃ a, decode w = .ok (.seed a)) = 2 ^ 16 ∧
  Nat.card (Subtype fun w : U32 => ∃ b, decode w = .ok (.feed b)) = 2 ^ 8 ∧
  Nat.card (Subtype fun w : U32 => decode w = .ok .read) = 1 ∧
  Nat.card (Subtype fun w : U32 => ∃ b, decode w = .ok (.tread b)) = 2 ^ 8 ∧
  Nat.card (Subtype fun w : U32 => decode w = .ok .stat) = 1 ∧
  Nat.card (Subtype fun w : U32 => ∃ i, decode w = .ok i) =
    2 ^ 24 + 2 ^ 16 + 2 ^ 8 + 1 + 2 ^ 8 + 1

/-- R43: a word spells the command of a row exactly when `(w & mask) == match`, with the fields `A` and
`B` as its operands; no word matches two rows; and the six example words. -/
def Obligations.MatchMaskRows : Prop :=
  (∀ w : U32,
    (decode w = .ok (.update (aField w) (bField w)) ↔ w &&& 0xFF000000#32 = 0x10000000#32) ∧
    (decode w = .ok (.seed (aField w)) ↔ w &&& 0xFF0000FF#32 = 0x20000000#32) ∧
    (decode w = .ok (.feed (bField w)) ↔ w &&& 0xFFFFFF00#32 = 0x30000000#32) ∧
    (decode w = .ok .read ↔ w &&& 0xFFFFFFFF#32 = 0x40000000#32) ∧
    (decode w = .ok (.tread (bField w)) ↔ w &&& 0xFFFFFF00#32 = 0x50000000#32) ∧
    (decode w = .ok .stat ↔ w &&& 0xFFFFFFFF#32 = 0x60000000#32)) ∧
  [((0x10000000#32 : U32), (0xFF000000#32 : U32)), (0x20000000#32, 0xFF0000FF#32),
    (0x30000000#32, 0xFFFFFF00#32), (0x40000000#32, 0xFFFFFFFF#32), (0x50000000#32, 0xFFFFFF00#32),
    (0x60000000#32, 0xFFFFFFFF#32)].Pairwise
      (fun p q => ∀ w : U32, ¬(w &&& p.2 = p.1 ∧ w &&& q.2 = q.1)) ∧
  encode (.update 0x1234#16 0x56#8) = 0x10123456#32 ∧
  encode (.seed 0xFFFF#16) = 0x20FFFF00#32 ∧
  encode (.feed 0x31#8) = 0x30000031#32 ∧
  encode .read = 0x40000000#32 ∧
  encode (.tread 0x80#8) = 0x50000080#32 ∧
  encode .stat = 0x60000000#32

/-- R47, R87: exactly which words are illegal, and what executing one does in any state: `ERR` is set,
the response word is 0x00010000, nothing else changes, and it never holds. -/
def Obligations.IllegalWords : Prop :=
  (∀ w : U32, (∃ e, decode w = .error e) ↔
    (rsvField w ≠ 0#4 ∨ opField w = 0#4 ∨ 7 ≤ (opField w).toNat ∨
      (opField w = 2#4 ∧ bField w ≠ 0#8) ∨
      (opField w = 3#4 ∧ aField w ≠ 0#16) ∨
      (opField w = 4#4 ∧ (aField w ≠ 0#16 ∨ bField w ≠ 0#8)) ∨
      (opField w = 5#4 ∧ aField w ≠ 0#16) ∨
      (opField w = 6#4 ∧ (aField w ≠ 0#16 ∨ bField w ≠ 0#8)))) ∧
  (∃ e, decode 0x00000000#32 = .error e) ∧ (∃ e, decode 0xFFFFFFFF#32 = .error e) ∧
  (∀ (w : U32) (s : State), (∃ e, decode w = .error e) →
    executeWord w s = .next { s with
      err := true
      cmdq := s.cmdq.tail
      rspq := s.rspq ++ [0x00010000#32] })

/-- The words of spec/95_test_vectors.md V13 that are written out from R42, one or two of each command,
decode to their commands. -/
def Obligations.WrittenWordsDecode : Prop :=
  decode 0x10123456#32 = .ok (.update 0x1234#16 0x56#8) ∧
  decode 0x20FFFF00#32 = .ok (.seed 0xFFFF#16) ∧
  decode 0x201D0F00#32 = .ok (.seed 0x1D0F#16) ∧
  decode 0x30000031#32 = .ok (.feed 0x31#8) ∧
  decode 0x40000000#32 = .ok .read ∧
  decode 0x50000080#32 = .ok (.tread 0x80#8) ∧
  decode 0x60000000#32 = .ok .stat

/-- R48: the fields of a response word, and R49: its status codes. -/
def Obligations.ResponseWordFields : Prop :=
  (∀ (st : Status) (res : U16),
    topField (rspWord st res) = 0#14 ∧
    stField (rspWord st res) = (match st with | .ok => 0#2 | .illegal => 1#2 | .noSeed => 2#2) ∧
    resField (rspWord st res) = res) ∧
  (∀ r : U32, rspWord .ok (resField r) = r ↔ r.toNat < 65536) ∧
  rspWord .ok 0x31C3#16 = 0x000031C3#32 ∧
  rspWord .illegal 0#16 = 0x00010000#32 ∧
  rspWord .noSeed 0#16 = 0x00020000#32

/-- R51: a written command whose operands fit is assembled to the command with those operands; one
whose operand does not fit is an error, not a truncation. -/
def Obligations.OperandsFitOrError : Prop :=
  ∀ c : Source,
    (c.wellFormed = true → ∃ i, assembleSource c = some i ∧ i.source = c) ∧
    (c.wellFormed = false → assembleSource c = none)

/-! ## The functions (spec/40_table.md, spec/41_engine.md) -/

/-- R53: on unbounded integers, cut to 16 bits after the exclusive-or; and bit by bit: every bit moves
up one place, the bit shifted in is 0, and where the top bit was set before the shift bits 0, 5 and 12
are inverted; with the rule's five corner cases. -/
def Obligations.FeedbackStepBits : Prop :=
  (∀ r : U16, (lfsr1 r).toNat =
    (if r.getLsbD 15 then (r.toNat <<< 1) ^^^ 0x1021 else r.toNat <<< 1) % 65536) ∧
  (∀ (r : U16) (i : Nat), i < 16 →
    (lfsr1 r).getLsbD i =
      ((decide (0 < i) && r.getLsbD (i - 1)) ^^ (r.getLsbD 15 && decide (i = 0 ∨ i = 5 ∨ i = 12)))) ∧
  lfsr1 0x0000#16 = 0x0000#16 ∧ lfsr1 0x8000#16 = 0x1021#16 ∧ lfsr1 0x7FFF#16 = 0xFFFE#16 ∧
  lfsr1 0xFFFF#16 = 0xEFDF#16 ∧ lfsr1 0x4000#16 = 0x8000#16

/-- R56: the 256 listed constants are `gen(0)` to `gen(255)`, in order. -/
def Obligations.ListedConstantsAreGen : Prop :=
  romWords = (List.range 256).map fun i => gen (BitVec.ofNat 8 i)

/-- R57: (a) linearity and the eight basis entries; (b) the entries and their low bytes are pairwise
distinct, their high bytes take 128 values; (c) the exclusive-or and the sum of all entries. -/
def Obligations.TableValueLaws : Prop :=
  (∀ p q : U16, lfsr1 (p ^^^ q) = lfsr1 p ^^^ lfsr1 q) ∧
  (∀ x y : U8, gen (x ^^^ y) = gen x ^^^ gen y) ∧
  gen 0x00#8 = 0x0000#16 ∧ gen 0x01#8 = 0x1021#16 ∧ gen 0x02#8 = 0x2042#16 ∧
  gen 0x04#8 = 0x4084#16 ∧ gen 0x08#8 = 0x8108#16 ∧ gen 0x10#8 = 0x1231#16 ∧
  gen 0x20#8 = 0x2462#16 ∧ gen 0x40#8 = 0x48C4#16 ∧ gen 0x80#8 = 0x9188#16 ∧
  (∀ x y : U8, gen x = gen y → x = y) ∧
  (∀ x y : U8, lowByte (gen x) = lowByte (gen y) → x = y) ∧
  ((List.range 256).map fun i => highByte (gen (BitVec.ofNat 8 i))).dedup.length = 128 ∧
  ((List.range 256).map fun i => gen (BitVec.ofNat 8 i)).foldr (· ^^^ ·) 0#16 = 0#16 ∧
  ((List.range 256).map fun i => (gen (BitVec.ofNat 8 i)).toNat).sum = 8388480

/-- R65: the table engine equals the bit-serial algorithm. -/
def Obligations.EngineIsBitSerial : Prop :=
  ∀ (a : U16) (b : U8), upd a b = lfsrSteps 8 (a ^^^ inHighByte b)

/-- R66: for a fixed byte `upd` is a bijection, for a fixed accumulator it is injective in the byte, and
two sequences that differ in exactly one byte never give the same result from the same seed. -/
def Obligations.EngineIsBijective : Prop :=
  (∀ b : U8, Function.Bijective fun a : U16 => upd a b) ∧
  (∀ a : U16, Function.Injective fun b : U8 => upd a b) ∧
  (∀ (seed : U16) (p q : List U8) (x y : U8), x ≠ y →
    compute seed (p ++ x :: q) ≠ compute seed (p ++ y :: q))

/-- R67 and R68: `compute` folds `upd` over the sequence left to right; over the empty sequence it is
the seed. -/
def Obligations.ComputeIsLeftFold : Prop :=
  (∀ (seed : U16) (bs : List U8), compute seed bs = List.foldl upd seed bs) ∧
  (∀ seed : U16, compute seed [] = seed)

/-- R69: streaming and whole-buffer computation agree. -/
def Obligations.ComputeSplits : Prop :=
  ∀ (seed : U16) (part1 part2 : List U8),
    compute seed (part1 ++ part2) = compute (compute seed part1) part2

/-- R73: flipping any single bit of the data changes the final accumulator. -/
def Obligations.SingleBitFlipChangesResult : Prop :=
  ∀ (seed : U16) (d : List U8) (k j : Nat) (x : U8), d[k]? = some x → j < 8 →
    compute seed (d.set k (x ^^^ (1#8 <<< j))) ≠ compute seed d

/-- R74: the checksum appended high byte first brings the accumulator to zero; appended low byte first
it does not in general (the rule's example). -/
def Obligations.ResidueIsZero : Prop :=
  (∀ (seed : U16) (d : List U8),
    compute seed (d ++ [highByte (compute seed d), lowByte (compute seed d)]) = 0#16) ∧
  compute 0x0000#16 [0x31#8, 0x32#8, 0x33#8, 0x34#8, 0x35#8, 0x36#8, 0x37#8, 0x38#8, 0x39#8,
    0xC3#8, 0x31#8] = 0xBAFE#16

/-- spec/95_test_vectors.md E6 and V8: the document's known answer for "123456789" with seed 0x0000, and
the derived answers for two other seeds. -/
def Obligations.KnownAnswers : Prop :=
  compute 0x0000#16 [0x31#8, 0x32#8, 0x33#8, 0x34#8, 0x35#8, 0x36#8, 0x37#8, 0x38#8, 0x39#8] =
    0x31C3#16 ∧
  compute 0xFFFF#16 [0x31#8, 0x32#8, 0x33#8, 0x34#8, 0x35#8, 0x36#8, 0x37#8, 0x38#8, 0x39#8] =
    0x29B1#16 ∧
  compute 0x1D0F#16 [0x31#8, 0x32#8, 0x33#8, 0x34#8, 0x35#8, 0x36#8, 0x37#8, 0x38#8, 0x39#8] =
    0xE5CC#16

/-- R33, R31: the engine's index is `a[15:8] ^ b`, the same as shifting, widening, exclusive-oring and
cutting to 8 bits; it depends on no bit of the low byte; GEN's index is `GIDX` itself below 256. -/
def Obligations.TableIndexForms : Prop :=
  (∀ (a : U16) (b : U8), engineIndex a b = ((a >>> 8) ^^^ b.setWidth 16).setWidth 8) ∧
  (∀ (a c : U16) (b : U8), highByte a = highByte c → engineIndex a b = engineIndex c b) ∧
  (∀ g : BitVec 9, g.toNat < 256 → (genIndex g).toNat = g.toNat)

/-! ## Reset (spec/10_state.md R24, spec/70_reset_and_hazards.md) -/

/-- R24: the value of every piece of state after reset, for both values of `TABLE_INIT`. -/
def Obligations.ResetValues : Prop :=
  (∀ i : U8, (resetIn .generated).entry i = none ∧ (resetIn .literal).entry i = some (gen i)) ∧
  (resetIn .generated).gidx = 0#9 ∧ (resetIn .literal).gidx = 256#9 ∧
  (resetIn .generated).ready = false ∧ (resetIn .literal).ready = true ∧
  (resetIn .generated).status = 0x0000#16 ∧ (resetIn .literal).status = 0x0001#16 ∧
  (∀ mode : TableInit,
    (resetIn mode).acc = none ∧ (resetIn mode).accv = false ∧ (resetIn mode).err = false ∧
    (resetIn mode).cmdq = [] ∧ (resetIn mode).rspq = [])

/-- R97, R99: while `RST` is asserted no agent's turn changes the block (the model keeps the state, log
6); at the release the block is in the reset state, whatever was pending. -/
def Obligations.ResetDiscardsAll : Prop :=
  ∀ (mode : TableInit) (pick : Nat → Turn) (s : State), s.rst = true →
    (s.turn pick = .host .releaseRst →
      stepIn mode pick s =
        .next { resetIn mode with plan := s.plan.tail, tick := s.tick + 1 }) ∧
    (s.turn pick ≠ .host .releaseRst →
      stepIn mode pick s = .next { s with plan := s.plan.tail, tick := s.tick + 1 })

/-- R97: reset is the only event that clears `ERR`, clears `ACCV`, takes `READY` back, lowers `GIDX` or
empties an entry of the table: any step but the release of `RST` keeps each (R16, R19, R12). That the
assertion turn and the turns while `RST` is asserted keep them too is the MODEL's choice (DESIGN CHOICE,
log 6): R97 gives the state at the release only. -/
def Obligations.OnlyReleaseClears : Prop :=
  ∀ (mode : TableInit) (pick : Nat → Turn) (s t : State), BlockInv s →
    stepIn mode pick s = .next t → (s.rst = true → s.turn pick ≠ .host .releaseRst) →
    (s.err = true → t.err = true) ∧ (s.accv = true → t.accv = true) ∧
    (s.ready = true → t.ready = true) ∧ s.gidx.toNat ≤ t.gidx.toNat ∧
    (∀ (i : U8) (v : U16), s.entry i = some v → t.entry i = some v)

/-! ## The generator (spec/40_table.md R58 to R60) -/

/-- R58: GEN's turn where GEN is enabled. It writes entry `GIDX`, leaves every other entry, advances the
index and changes nothing else. -/
def Obligations.GenTurnFillsOneEntry : Prop :=
  ∀ (mode : TableInit) (s : State), s.rst = false → s.gidx.toNat < 256 →
    ∃ table', takeTurn mode .gen s = .next { s with table := table', gidx := s.gidx + 1#9 } ∧
      Table.read table' s.gidx.toNat = some (gen (BitVec.ofNat 8 s.gidx.toNat)) ∧
      (∀ i : Nat, i ≠ s.gidx.toNat → Table.read table' i = Table.read s.table i)

/-- R59, V18: after `k` GEN turns from reset the entries below `k` hold `gen(i)` and the others no
value; nothing else has changed; and at 256 GEN has no step. -/
def Obligations.GenTurnsFillInOrder : Prop :=
  (∀ (mode : TableInit) (pick : Nat → Turn) (k : Nat), k ≤ 256 →
    ∃ table', runIn mode pick k { resetIn .generated with plan := List.replicate k .gen } =
        .next { resetIn .generated with
          table := table', gidx := BitVec.ofNat 9 k, tick := k } ∧
      Table.wf table' = true ∧
      (∀ i : U8, Table.read table' i.toNat = if i.toNat < k then some (gen i) else none)) ∧
  (∀ (mode : TableInit) (s : State), s.rst = false → s.gidx = 256#9 →
    takeTurn mode .gen s = .next s)

/-- R60: the table GEN generates and the true ROM are bit-identical: in every state that keeps the
invariant and is ready, however it was reached, the table is the ROM's; and after its 256 GEN turns from
reset a `GENERATED` block is in the reset state of a `LITERAL` block (but for the count of turns, the
model's own). -/
def Obligations.GeneratedBecomesLiteral : Prop :=
  (∀ s : State, BlockInv s → s.ready = true → s.table = romTable) ∧
  ∀ (mode : TableInit) (pick : Nat → Turn),
    runIn mode pick 256 { resetIn .generated with plan := List.replicate 256 .gen } =
      .next { resetIn .literal with tick := 256 }

/-- R60: from the moment `READY == 1`, two blocks with equal `ACC`, `ACCV` and `ERR`, whatever their
`TABLE_INIT`, give equal responses to every command sequence. -/
def Obligations.ReadyBlocksAnswerAlike : Prop :=
  ∀ (mode1 mode2 : TableInit) (pick1 pick2 : Nat → Turn) (s1 s2 : State) (ws : List U32),
    BlockInv s1 → BlockInv s2 → s1.ready = true → s2.ready = true → s1.rst = false → s2.rst = false →
    s1.acc = s2.acc → s1.accv = s2.accv → s1.err = s2.err → s1.cmdq = ws → s2.cmdq = ws →
    s1.plan = List.replicate ws.length .exec → s2.plan = List.replicate ws.length .exec →
    ∃ t1 t2 rs, runIn mode1 pick1 ws.length s1 = .next t1 ∧ runIn mode2 pick2 ws.length s2 = .next t2 ∧
      rs.length = ws.length ∧ t1.rspq = s1.rspq ++ rs ∧ t2.rspq = s2.rspq ++ rs

/-! ## The six commands: where each completes, and its frame -/

/-- R75: `UPDATE acc, byte` with `READY == 1` answers `upd(A, B)` and writes no state. -/
def Obligations.UpdateAnswers : Prop :=
  ∀ (a : U16) (b : U8) (s : State), BlockInv s → s.ready = true →
    exec (.update a b) s = .next { s with
      cmdq := s.cmdq.tail
      rspq := s.rspq ++ [rspWord .ok ((a <<< 8) ^^^ gen (highByte a ^^^ b))] }

/-- R76: `SEED seed` in every state loads `ACC`, sets `ACCV` and answers the seed. -/
def Obligations.SeedLoadsAcc : Prop :=
  ∀ (a : U16) (s : State),
    exec (.seed a) s = .next { s with
      acc := some a
      accv := true
      cmdq := s.cmdq.tail
      rspq := s.rspq ++ [rspWord .ok a] }

/-- R77: `FEED byte` with a seeded `ACC` and `READY == 1` folds the byte into `ACC` and answers the new
value. -/
def Obligations.FeedFoldsByte : Prop :=
  ∀ (b : U8) (a : U16) (s : State), BlockInv s → s.ready = true → s.accv = true → s.acc = some a →
    exec (.feed b) s = .next { s with
      acc := some ((a <<< 8) ^^^ gen (highByte a ^^^ b))
      cmdq := s.cmdq.tail
      rspq := s.rspq ++ [rspWord .ok ((a <<< 8) ^^^ gen (highByte a ^^^ b))] }

/-- R78: `READ` with a seeded `ACC` answers it and writes no state, whatever `READY` is. -/
def Obligations.ReadAnswersAcc : Prop :=
  ∀ (a : U16) (s : State), s.accv = true → s.acc = some a →
    exec .read s = .next { s with
      cmdq := s.cmdq.tail
      rspq := s.rspq ++ [rspWord .ok a] }

/-- R62: `TREAD index` with `READY == 1` answers `gen(index)` and writes no state. -/
def Obligations.TreadAnswersEntry : Prop :=
  ∀ (i : U8) (s : State), BlockInv s → s.ready = true →
    exec (.tread i) s = .next { s with
      cmdq := s.cmdq.tail
      rspq := s.rspq ++ [rspWord .ok (gen i)] }

/-- R81: `STAT` in every state answers `{0[15:3], ERR, ACCV, READY}` of the state before it, one of 0
to 7, and writes no state. -/
def Obligations.StatAnswersFlags : Prop :=
  ∀ s : State, ∃ res : U16,
    exec .stat s = .next { s with
      cmdq := s.cmdq.tail
      rspq := s.rspq ++ [rspWord .ok res] } ∧
    res.toNat = (if s.err then 4 else 0) + (if s.accv then 2 else 0) +
      (if s.gidx = 256#9 then 1 else 0)

/-- R20: the bits of `STATUS` and its reset values. -/
def Obligations.StatusBits : Prop :=
  (∀ (s : State), s.status.getLsbD 0 = s.ready ∧ s.status.getLsbD 1 = s.accv ∧
    s.status.getLsbD 2 = s.err ∧ (∀ i, 3 ≤ i → s.status.getLsbD i = false)) ∧
  (resetIn .generated).status = 0x0000#16 ∧ (resetIn .literal).status = 0x0001#16

/-! ## Hold, errors and the order of judgement (spec/60_exceptions.md) -/

/-- R18: with `READY == 0` `UPDATE`, `TREAD` and a seeded `FEED` hold: nothing changes and the command
stays at the head of `CMDQ`. -/
def Obligations.TableCommandsHold : Prop :=
  ∀ s : State, s.ready = false →
    (∀ (a : U16) (b : U8), exec (.update a b) s = .next s) ∧
    (∀ i : U8, exec (.tread i) s = .next s) ∧
    (∀ (b : U8) (a : U16), s.accv = true → s.acc = some a → exec (.feed b) s = .next s)

/-- R88: `FEED` and `READ` with `ACCV == 0` are the error NoSeed, answered at once whatever `READY` is:
`ERR` is set, the response word is 0x00020000, and nothing else changes. -/
def Obligations.UnseededIsNoSeed : Prop :=
  ∀ s : State, s.accv = false →
    (∀ b : U8, exec (.feed b) s = .next { s with
      err := true
      cmdq := s.cmdq.tail
      rspq := s.rspq ++ [0x00020000#32] }) ∧
    exec .read s = .next { s with
      err := true
      cmdq := s.cmdq.tail
      rspq := s.rspq ++ [0x00020000#32] }

/-- R90: the first test that fires decides: Illegal, then NoSeed, then the hold, then execution, which
answers OK and may change `ACC` and `ACCV` only. -/
def Obligations.OrderOfJudgement : Prop :=
  ∀ (w : U32) (s : State), BlockInv s →
    match decode w with
    | .error _ => executeWord w s = .next (raise .illegal s)
    | .ok i =>
      if ((∃ b, i = .feed b) ∨ i = .read) ∧ s.accv = false then
        executeWord w s = .next (raise .noSeed s)
      else if ((∃ a b, i = .update a b) ∨ (∃ b, i = .feed b) ∨ (∃ b, i = .tread b)) ∧
          s.ready = false then
        executeWord w s = .next s
      else
        ∃ (res : U16) (acc' : Option U16) (accv' : Bool),
          executeWord w s =
            .next (respond .ok res { s with acc := acc', accv := accv' })

/-- R9, R22: executing a word holds with nothing changed, or takes the command from the head of `CMDQ`
and appends exactly one legal response (R48, R49). -/
def Obligations.OneResponsePerCommand : Prop :=
  ∀ (w : U32) (s t : State), executeWord w s = .next t →
    (t = s ∧ s.ready = false) ∨
    (t.cmdq = s.cmdq.tail ∧ ∃ r, LegalResponse r ∧ t.rspq = s.rspq ++ [r])

/-- R91: errors are precise: where the one response appended is not OK, the whole effect is `ERR <- 1`
and that response. -/
def Obligations.ErrorsArePrecise : Prop :=
  ∀ (w : U32) (s t : State) (r : U32), executeWord w s = .next t → t.rspq = s.rspq ++ [r] →
    stField r ≠ 0#2 →
    t = { s with err := true, cmdq := s.cmdq.tail, rspq := s.rspq ++ [r] } ∧ resField r = 0#16

/-- R34: no command writes the table or the generator's index, or touches `RST`. -/
def Obligations.NoCommandWritesTable : Prop :=
  ∀ (w : U32) (s t : State), executeWord w s = .next t →
    t.table = s.table ∧ t.gidx = s.gidx ∧ t.rst = s.rst ∧ t.plan = s.plan ∧ t.tick = s.tick

/-- R13: `UPDATE`, `TREAD` and `STAT` neither read nor write `ACC`, and neither `UPDATE` nor `TREAD`
depends on `ACCV` or `ERR`: putting other values there changes the answer there only. -/
def Obligations.UpdateIgnoresAcc : Prop :=
  ∀ (s t : State) (x : Option U16) (v e : Bool),
    (∀ i : Instr, ((∃ a b, i = .update a b) ∨ (∃ j, i = .tread j)) → exec i s = .next t →
      exec i { s with acc := x, accv := v, err := e } =
        .next { t with acc := x, accv := v, err := e }) ∧
    (exec .stat s = .next t → exec .stat { s with acc := x } = .next { t with acc := x })

/-- Log 5: every stop of every command. `READ` stops exactly where `ACCV` is set and `ACC` holds no value;
`FEED` there, and where it is seeded and ready and the entry it reads holds no value; `UPDATE` and `TREAD`
exactly where `READY` is set and the entry they read holds no value; each with the fault of that name and
no other. `SEED` and `STAT` never stop, and no command is refused. The model's choice (log 5) for states
that R12 and R19 rule out. -/
def Obligations.StopsExactlyWhere : Prop :=
  ∀ s : State,
    (∀ f : Fault, exec .read s = .fault f ↔
      f = .accHoldsNoValue ∧ s.accv = true ∧ s.acc = none) ∧
    (∀ (b : U8) (f : Fault), exec (.feed b) s = .fault f ↔
      (f = .accHoldsNoValue ∧ s.accv = true ∧ s.acc = none) ∨
      (f = .entryHoldsNoValue ∧ s.accv = true ∧ s.ready = true ∧
        ∃ a, s.acc = some a ∧ s.entry (engineIndex a b) = none)) ∧
    (∀ (a : U16) (b : U8) (f : Fault), exec (.update a b) s = .fault f ↔
      f = .entryHoldsNoValue ∧ s.ready = true ∧ s.entry (engineIndex a b) = none) ∧
    (∀ (i : U8) (f : Fault), exec (.tread i) s = .fault f ↔
      f = .entryHoldsNoValue ∧ s.ready = true ∧ s.entry i = none) ∧
    (∀ (a : U16) (f : Fault), exec (.seed a) s ≠ .fault f) ∧
    (∀ f : Fault, exec .stat s ≠ .fault f) ∧
    (∀ (i : Instr) (r : Refusal), exec i s ≠ .refused r)

/-! ## The machine: steps, agents, invariants -/

/-- R22, R90: where the turn is EXEC's and the word at the head of `CMDQ` decodes to a command, the step
is that command's execution on the state with the turn used up (`plan` and `tick`, the model's own); an
illegal word is answered instead. -/
def Obligations.StepRunsHeadCommand : Prop :=
  ∀ (s : State) (w : U32) (ws : List U32), s.rst = false → s.turn Config.turn = .exec →
    s.cmdq = w :: ws →
    (∀ i : Instr, decode w = .ok i →
      step s = exec i { s with plan := s.plan.tail, tick := s.tick + 1 }) ∧
    (∀ e : DecodeError, decode w = .error e →
      step s = .next (raise .illegal { s with plan := s.plan.tail, tick := s.tick + 1 }))

/-- A placed command is what the next step runs, from any state (log 13). -/
def Obligations.StepRunsPlacedCommand : Prop :=
  ∀ (s : State) (i : Instr),
    step (s.withFetchWord 32 (encode i).toNat) =
      exec i { s with cmdq := encode i :: s.cmdq, rst := false, tick := s.tick + 1 }

/-- R101, R22: HOST's turns. It appends to the tail of `CMDQ`, removes the head of `RSPQ`, asserts `RST`,
and changes nothing else (an empty `RSPQ` stays empty, log 11; a release without an assertion changes
nothing, log 6). -/
def Obligations.HostTurns : Prop :=
  ∀ (mode : TableInit) (s : State), s.rst = false →
    (∀ w : U32, takeTurn mode (.host (.send w)) s = .next { s with cmdq := s.cmdq ++ [w] }) ∧
    (∀ (r : U32) (rs : List U32), s.rspq = r :: rs →
      takeTurn mode (.host .take) s = .next { s with rspq := rs }) ∧
    (s.rspq = [] → takeTurn mode (.host .take) s = .next s) ∧
    takeTurn mode (.host .assertRst) s = .next { s with rst := true } ∧
    takeTurn mode (.host .releaseRst) s = .next s

/-- R24, R12: the invariant holds right after reset, of a block with either value of `TABLE_INIT`; and so
in `State.reset`, the reset state of the machine, whose `TABLE_INIT` is the model's choice (log 3). -/
def Obligations.BlockInvHoldsAfterReset : Prop :=
  (∀ mode : TableInit, BlockInv (resetIn mode)) ∧ BlockInv State.reset

/-- Every step keeps the invariant: the table stays in canonical form and holds exactly `gen(i)` below
`GIDX` (R12, R55), `GIDX` never exceeds 256 (R16), `ACCV` says whether `ACC` holds a value (R19); under
either `TABLE_INIT`, whatever the order of turns and whatever HOST does. -/
def Obligations.StepKeepsBlockInv : Prop :=
  (∀ s t : State, BlockInv s → step s = .next t → BlockInv t) ∧
  (∀ (mode : TableInit) (pick : Nat → Turn) (s t : State), BlockInv s → stepIn mode pick s = .next t → BlockInv t)

/-- R84, R12, R13: no step of a block that keeps its invariant stops: no place that holds no value is
ever read, whatever HOST sends and in whatever order the turns come. -/
def Obligations.NoStepStops : Prop :=
  ∀ (mode : TableInit) (pick : Nat → Turn) (s : State), BlockInv s →
    ∃ t, stepIn mode pick s = .next t

/-- R48, R49: every step keeps the responses legal; `ST = 3` is never produced. -/
def Obligations.StepKeepsResponsesLegal : Prop :=
  ∀ (mode : TableInit) (pick : Nat → Turn) (s t : State), ResponsesLegal s →
    stepIn mode pick s = .next t → ResponsesLegal t

/-- R35: once `READY == 1` the table is a constant until the next reset: no step of any agent changes
any of it. That it is kept through the assertion of `RST`, and while `RST` is asserted, up to the release
is the MODEL's choice (DESIGN CHOICE, log 6). -/
def Obligations.ReadyTableIsConstant : Prop :=
  ∀ (mode : TableInit) (pick : Nat → Turn) (s t : State), s.ready = true →
    stepIn mode pick s = .next t → (s.rst = true → s.turn pick ≠ .host .releaseRst) →
    t.table = s.table ∧ t.ready = true

/-- R36: there is no race between GEN and EXEC: they give the same state in either order where the GEN
step does not complete the table, whatever EXEC does; and also where it does, if EXEC's turn is idle, a
`SEED`, a `READ`, an illegal word or an unseeded `FEED`. (At `GIDX == 255` the order decides whether a
table command holds and what `STAT` answers, R18, R81.) -/
def Obligations.GenAndExecCommute : Prop :=
  ∀ s t : State, execTurn s = .next t →
    (s.gidx.toNat < 255 ∨ s.cmdq = [] ∨
      ∃ w ws, s.cmdq = w :: ws ∧
        ((∃ e, decode w = .error e) ∨ (∃ a, decode w = .ok (.seed a)) ∨ decode w = .ok .read ∨
          ((∃ b, decode w = .ok (.feed b)) ∧ s.accv = false))) →
    execTurn (genStep s) = .next (genStep t)

/-! ## Whole runs (spec/41_engine.md section 4, spec/70_reset_and_hazards.md) -/

/-- R79, the stream theorem. In any order of GEN and EXEC turns that executes all of `CMDQ`, where the
stream commands in `CMDQ` are `SEED s`, the `FEED`s of `bs` and one `READ`, with any other words between
them: every word gets one response, those to the stream are the seed, `compute` of each beginning of
`bs`, and `compute` of all of it, each OK; afterwards `ACC` holds that value. -/
def Obligations.StreamComputes : Prop :=
  ∀ (mode : TableInit) (pick : Nat → Turn) (s t : State) (seed : U16) (bs : List U8),
    BlockInv s → s.rst = false → HostQuiet s.plan →
    s.cmdq.filterMap streamCommand = computeCommands seed bs →
    runIn mode pick s.plan.length s = .next t → t.cmdq = [] →
    ∃ rs, t.rspq = s.rspq ++ rs ∧ rs.length = s.cmdq.length ∧
      streamAnswers s.cmdq rs = streamExpected seed bs ∧
      t.acc = some (compute seed bs) ∧ t.accv = true

/-- R80, the chain theorem, from every state of the invariant, `READY` or not: a chain of `UPDATE`s, each
taking its accumulator from the previous response, ends with `compute`, whatever other words are
submitted in between (HOST waits for each response, log 18); with no other word sent or pending it does
not touch `ACC` (R52). -/
def Obligations.ChainComputes : Prop :=
  ∀ (mode : TableInit) (s : State) (seed : U16) (items : List (List U32 × U8)),
    BlockInv s → s.rst = false →
    ∃ t, computeX mode seed items s = some (t, compute seed (items.map Prod.snd)) ∧
      (s.cmdq = [] → (∀ p ∈ items, p.1 = []) → t.acc = s.acc ∧ t.accv = s.accv ∧ t.err = s.err)

/-- R103: two callers' streams interleaved on the one `ACC`: the second `SEED` discards the first
caller's value, every response is OK, and `ERR` is not set; with the rule's example values. -/
def Obligations.InterleavedStreamsDamage : Prop :=
  (∀ (mode : TableInit) (pick : Nat → Turn) (s : State) (a a' : U16) (b b' : U8),
    BlockInv s → s.ready = true → s.rst = false → s.plan = List.replicate 5 .exec →
    s.cmdq = [encode (.seed a), encode (.feed b), encode (.seed a'), encode (.feed b'),
      encode .read] →
    ∃ t, runIn mode pick 5 s = .next t ∧ t.err = s.err ∧ t.acc = some (upd a' b') ∧
      t.rspq = s.rspq ++ [rspWord .ok a, rspWord .ok (upd a b), rspWord .ok a',
        rspWord .ok (upd a' b'), rspWord .ok (upd a' b')]) ∧
  upd 0xFFFF#16 0x32#8 = 0xF7E1#16 ∧ compute 0x0000#16 [0x31#8, 0x32#8] = 0x20B5#16

/-- R107: if GEN's turn comes again and again and `RST` is not asserted, `READY` is reached, whatever
else HOST and EXEC do. -/
def Obligations.FairGenReachesReady : Prop :=
  ∀ (mode : TableInit) (pick : Nat → Turn) (s : State), BlockInv s → s.rst = false → s.plan = [] →
    (∀ n, pick n ≠ .host .assertRst) → Recurs pick .gen →
    ∃ n t, runIn mode pick n s = .next t ∧ t.ready = true

/-- R102, R107: a finite list of commands always reaches the end of the run: with GEN's and EXEC's turns
coming again and again and HOST quiet, every queued command is answered once and the table is complete. -/
def Obligations.FiniteRunEnds : Prop :=
  ∀ (mode : TableInit) (pick : Nat → Turn) (s : State), BlockInv s → s.rst = false → s.plan = [] →
    (∀ n, pick n = .gen ∨ pick n = .exec) → Recurs pick .gen → Recurs pick .exec →
    ∃ n t, runIn mode pick n s = .next t ∧ RunOver mode t ∧ t.gidx = 256#9 ∧
      t.rspq.length = s.rspq.length + s.cmdq.length

/-- R52: the value of `crc16_update` is `upd`, from every state of the invariant, `READY` or not; with no
other command pending it changes none of `ACC`, `ACCV` and `ERR`. -/
def Obligations.Crc16UpdateHasValue : Prop :=
  ∀ (mode : TableInit) (s : State) (acc : U16) (byte : U8), BlockInv s → s.rst = false →
    ∃ t, crc16UpdateValue mode acc byte s = some (t, upd acc byte) ∧ t.cmdq = [] ∧
      (s.cmdq = [] → t.acc = s.acc ∧ t.accv = s.accv ∧ t.err = s.err)

/-- R52: the value of `COMPUTE`, the `RES` of the response to its `READ`, is `compute`, from every state
of the invariant, `READY` or not, whatever commands are pending before it; it overwrites `ACC`; a text
is computed over its ASCII codes, and a text with another character has no value. -/
def Obligations.ComputeHasValue : Prop :=
  ∀ (mode : TableInit) (s : State) (seed : U16), BlockInv s → s.rst = false →
    (∀ bs : List U8, ∃ t, computeValue mode seed bs s = some (t, compute seed bs) ∧
      t.cmdq = [] ∧ t.acc = some (compute seed bs) ∧ t.accv = true) ∧
    (∀ text : List Char, (∀ c ∈ text, c.toNat < 128) →
      ∃ t, computeTextValue mode seed text s =
        some (t, compute seed (text.map fun c => BitVec.ofNat 8 c.toNat))) ∧
    (∀ text : List Char, (∃ c ∈ text, 128 ≤ c.toNat) → computeTextValue mode seed text s = none)
end

