-- ==== Sys2Proof/Laws/Encoding.lean ====
section
/-! SUPPORT. The bits and fields of a composed word: what each field accessor reads back from a command
word (spec/30_encoding.md R42) and from a response word (R48). -/

namespace Sys2Proof.Machine

/-- The bits of a command word (R42). -/
theorem getLsbD_cmdWord (op : BitVec 4) (a : U16) (b : U8) (i : Nat) :
    (cmdWord op a b).getLsbD i =
      if i < 8 then b.getLsbD i
      else if i - 8 < 16 then a.getLsbD (i - 8)
      else if i - 8 - 16 < 4 then false
      else op.getLsbD (i - 8 - 16 - 4) := by
  have h := BitVec.getLsbD_append (x := op ++ 0#4 ++ a) (y := b) (i := i)
  rw [BitVec.getLsbD_append (x := op ++ 0#4) (y := a), BitVec.getLsbD_append (x := op) (y := 0#4)] at h
  rw [show (0#4).getLsbD (i - 8 - 16) = false by simp] at h
  exact h

/-- The bits of a response word (R48). -/
theorem getLsbD_rspWord (st : Status) (res : U16) (i : Nat) :
    (rspWord st res).getLsbD i =
      if i < 16 then res.getLsbD i
      else if i - 16 < 2 then st.code.getLsbD (i - 16) else false := by
  have h := BitVec.getLsbD_append (x := 0#14 ++ st.code) (y := res) (i := i)
  rw [BitVec.getLsbD_append (x := 0#14) (y := st.code)] at h
  rw [show (0#14).getLsbD (i - 16 - 2) = false by simp] at h
  exact h

@[simp] theorem opField_cmdWord (op : BitVec 4) (a : U16) (b : U8) :
    opField (cmdWord op a b) = op := by
  ext i hi
  simp [opField, getLsbD_cmdWord, show ¬(28 + i < 8) by omega, show ¬(28 + i - 8 < 16) by omega,
    show ¬(28 + i - 8 - 16 < 4) by omega, show 28 + i - 8 - 16 - 4 = i by omega, hi]

@[simp] theorem rsvField_cmdWord (op : BitVec 4) (a : U16) (b : U8) :
    rsvField (cmdWord op a b) = 0#4 := by
  ext i hi
  simp [rsvField, getLsbD_cmdWord, show ¬(24 + i < 8) by omega, show ¬(24 + i - 8 < 16) by omega,
    show 24 + i - 8 - 16 < 4 by omega]

@[simp] theorem aField_cmdWord (op : BitVec 4) (a : U16) (b : U8) :
    aField (cmdWord op a b) = a := by
  ext i hi
  simp [aField, getLsbD_cmdWord, hi]

@[simp] theorem bField_cmdWord (op : BitVec 4) (a : U16) (b : U8) :
    bField (cmdWord op a b) = b := by
  ext i hi
  simp [bField, getLsbD_cmdWord, hi]

@[simp] theorem topField_rspWord (st : Status) (res : U16) : topField (rspWord st res) = 0#14 := by
  ext i hi
  simp [topField, getLsbD_rspWord, show ¬(18 + i < 16) by omega, show ¬(18 + i - 16 < 2) by omega]

@[simp] theorem stField_rspWord (st : Status) (res : U16) : stField (rspWord st res) = st.code := by
  ext i hi
  simp [stField, getLsbD_rspWord, hi]

@[simp] theorem resField_rspWord (st : Status) (res : U16) : resField (rspWord st res) = res := by
  ext i hi
  simp [resField, getLsbD_rspWord, hi]

end Sys2Proof.Machine
end

