-- ==== Sys2Proof/Laws/State.lean ====
section
/-! SUPPORT. One small lemma per field per update of the state, each true by unfolding, so that no
later proof unfolds a record update. -/

namespace Sys2Proof.Machine

/-! `respond` (R8) -/

@[simp] theorem respond_table (st : Status) (res : U16) (s : State) :
    (respond st res s).table = s.table := rfl

@[simp] theorem respond_acc (st : Status) (res : U16) (s : State) :
    (respond st res s).acc = s.acc := rfl

@[simp] theorem respond_accv (st : Status) (res : U16) (s : State) :
    (respond st res s).accv = s.accv := rfl

@[simp] theorem respond_err (st : Status) (res : U16) (s : State) :
    (respond st res s).err = s.err := rfl

@[simp] theorem respond_gidx (st : Status) (res : U16) (s : State) :
    (respond st res s).gidx = s.gidx := rfl

@[simp] theorem respond_cmdq (st : Status) (res : U16) (s : State) :
    (respond st res s).cmdq = s.cmdq.tail := rfl

@[simp] theorem respond_rspq (st : Status) (res : U16) (s : State) :
    (respond st res s).rspq = s.rspq ++ [rspWord st res] := rfl

@[simp] theorem respond_rst (st : Status) (res : U16) (s : State) :
    (respond st res s).rst = s.rst := rfl

@[simp] theorem respond_plan (st : Status) (res : U16) (s : State) :
    (respond st res s).plan = s.plan := rfl

@[simp] theorem respond_tick (st : Status) (res : U16) (s : State) :
    (respond st res s).tick = s.tick := rfl

/-! `hold` (R9) -/

@[simp] theorem hold_table (s : State) :
    (hold s).table = s.table := rfl

@[simp] theorem hold_acc (s : State) :
    (hold s).acc = s.acc := rfl

@[simp] theorem hold_accv (s : State) :
    (hold s).accv = s.accv := rfl

@[simp] theorem hold_err (s : State) :
    (hold s).err = s.err := rfl

@[simp] theorem hold_gidx (s : State) :
    (hold s).gidx = s.gidx := rfl

@[simp] theorem hold_cmdq (s : State) :
    (hold s).cmdq = s.cmdq := rfl

@[simp] theorem hold_rspq (s : State) :
    (hold s).rspq = s.rspq := rfl

@[simp] theorem hold_rst (s : State) :
    (hold s).rst = s.rst := rfl

@[simp] theorem hold_plan (s : State) :
    (hold s).plan = s.plan := rfl

@[simp] theorem hold_tick (s : State) :
    (hold s).tick = s.tick := rfl

/-! `raise` (R87, R88) -/

@[simp] theorem raise_table (e : PortError) (s : State) :
    (raise e s).table = s.table := rfl

@[simp] theorem raise_acc (e : PortError) (s : State) :
    (raise e s).acc = s.acc := rfl

@[simp] theorem raise_accv (e : PortError) (s : State) :
    (raise e s).accv = s.accv := rfl

@[simp] theorem raise_err (e : PortError) (s : State) :
    (raise e s).err = true := rfl

@[simp] theorem raise_gidx (e : PortError) (s : State) :
    (raise e s).gidx = s.gidx := rfl

@[simp] theorem raise_cmdq (e : PortError) (s : State) :
    (raise e s).cmdq = s.cmdq.tail := rfl

@[simp] theorem raise_rspq (e : PortError) (s : State) :
    (raise e s).rspq = s.rspq ++ [rspWord (errorStatus e) 0#16] := rfl

@[simp] theorem raise_rst (e : PortError) (s : State) :
    (raise e s).rst = s.rst := rfl

@[simp] theorem raise_plan (e : PortError) (s : State) :
    (raise e s).plan = s.plan := rfl

@[simp] theorem raise_tick (e : PortError) (s : State) :
    (raise e s).tick = s.tick := rfl

/-! a turn used up (log 1, 2) -/

@[simp] theorem turnTaken_table (s : State) :
    (s.turnTaken).table = s.table := rfl

@[simp] theorem turnTaken_acc (s : State) :
    (s.turnTaken).acc = s.acc := rfl

@[simp] theorem turnTaken_accv (s : State) :
    (s.turnTaken).accv = s.accv := rfl

@[simp] theorem turnTaken_err (s : State) :
    (s.turnTaken).err = s.err := rfl

@[simp] theorem turnTaken_gidx (s : State) :
    (s.turnTaken).gidx = s.gidx := rfl

@[simp] theorem turnTaken_cmdq (s : State) :
    (s.turnTaken).cmdq = s.cmdq := rfl

@[simp] theorem turnTaken_rspq (s : State) :
    (s.turnTaken).rspq = s.rspq := rfl

@[simp] theorem turnTaken_rst (s : State) :
    (s.turnTaken).rst = s.rst := rfl

@[simp] theorem turnTaken_plan (s : State) :
    (s.turnTaken).plan = s.plan.tail := rfl

@[simp] theorem turnTaken_tick (s : State) :
    (s.turnTaken).tick = s.tick + 1 := rfl

/-! HOST sends a word (R22) -/

@[simp] theorem send_table (w : U32) (s : State) :
    (hostTurn (.send w) s).table = s.table := rfl

@[simp] theorem send_acc (w : U32) (s : State) :
    (hostTurn (.send w) s).acc = s.acc := rfl

@[simp] theorem send_accv (w : U32) (s : State) :
    (hostTurn (.send w) s).accv = s.accv := rfl

@[simp] theorem send_err (w : U32) (s : State) :
    (hostTurn (.send w) s).err = s.err := rfl

@[simp] theorem send_gidx (w : U32) (s : State) :
    (hostTurn (.send w) s).gidx = s.gidx := rfl

@[simp] theorem send_cmdq (w : U32) (s : State) :
    (hostTurn (.send w) s).cmdq = s.cmdq ++ [w] := rfl

@[simp] theorem send_rspq (w : U32) (s : State) :
    (hostTurn (.send w) s).rspq = s.rspq := rfl

@[simp] theorem send_rst (w : U32) (s : State) :
    (hostTurn (.send w) s).rst = s.rst := rfl

@[simp] theorem send_plan (w : U32) (s : State) :
    (hostTurn (.send w) s).plan = s.plan := rfl

@[simp] theorem send_tick (w : U32) (s : State) :
    (hostTurn (.send w) s).tick = s.tick := rfl

/-! HOST takes a response (R22) -/

@[simp] theorem take_table (s : State) :
    (hostTurn .take s).table = s.table := rfl

@[simp] theorem take_acc (s : State) :
    (hostTurn .take s).acc = s.acc := rfl

@[simp] theorem take_accv (s : State) :
    (hostTurn .take s).accv = s.accv := rfl

@[simp] theorem take_err (s : State) :
    (hostTurn .take s).err = s.err := rfl

@[simp] theorem take_gidx (s : State) :
    (hostTurn .take s).gidx = s.gidx := rfl

@[simp] theorem take_cmdq (s : State) :
    (hostTurn .take s).cmdq = s.cmdq := rfl

@[simp] theorem take_rspq (s : State) :
    (hostTurn .take s).rspq = s.rspq.tail := rfl

@[simp] theorem take_rst (s : State) :
    (hostTurn .take s).rst = s.rst := rfl

@[simp] theorem take_plan (s : State) :
    (hostTurn .take s).plan = s.plan := rfl

@[simp] theorem take_tick (s : State) :
    (hostTurn .take s).tick = s.tick := rfl

/-! HOST asserts `RST` (R97) -/

@[simp] theorem assertRst_table (s : State) :
    (hostTurn .assertRst s).table = s.table := rfl

@[simp] theorem assertRst_acc (s : State) :
    (hostTurn .assertRst s).acc = s.acc := rfl

@[simp] theorem assertRst_accv (s : State) :
    (hostTurn .assertRst s).accv = s.accv := rfl

@[simp] theorem assertRst_err (s : State) :
    (hostTurn .assertRst s).err = s.err := rfl

@[simp] theorem assertRst_gidx (s : State) :
    (hostTurn .assertRst s).gidx = s.gidx := rfl

@[simp] theorem assertRst_cmdq (s : State) :
    (hostTurn .assertRst s).cmdq = s.cmdq := rfl

@[simp] theorem assertRst_rspq (s : State) :
    (hostTurn .assertRst s).rspq = s.rspq := rfl

@[simp] theorem assertRst_rst (s : State) :
    (hostTurn .assertRst s).rst = true := rfl

@[simp] theorem assertRst_plan (s : State) :
    (hostTurn .assertRst s).plan = s.plan := rfl

@[simp] theorem assertRst_tick (s : State) :
    (hostTurn .assertRst s).tick = s.tick := rfl

/-! a command placed for the next step (log 13) -/

@[simp] theorem placeCommand_table (w : U32) (s : State) :
    (placeCommand w s).table = s.table := rfl

@[simp] theorem placeCommand_acc (w : U32) (s : State) :
    (placeCommand w s).acc = s.acc := rfl

@[simp] theorem placeCommand_accv (w : U32) (s : State) :
    (placeCommand w s).accv = s.accv := rfl

@[simp] theorem placeCommand_err (w : U32) (s : State) :
    (placeCommand w s).err = s.err := rfl

@[simp] theorem placeCommand_gidx (w : U32) (s : State) :
    (placeCommand w s).gidx = s.gidx := rfl

@[simp] theorem placeCommand_cmdq (w : U32) (s : State) :
    (placeCommand w s).cmdq = w :: s.cmdq := rfl

@[simp] theorem placeCommand_rspq (w : U32) (s : State) :
    (placeCommand w s).rspq = s.rspq := rfl

@[simp] theorem placeCommand_rst (w : U32) (s : State) :
    (placeCommand w s).rst = false := rfl

@[simp] theorem placeCommand_plan (w : U32) (s : State) :
    (placeCommand w s).plan = .exec :: s.plan := rfl

@[simp] theorem placeCommand_tick (w : U32) (s : State) :
    (placeCommand w s).tick = s.tick := rfl

/-! the release of `RST` (R97): the order of turns goes on, the rest is the reset state -/

@[simp] theorem releaseReset_table (mode : TableInit) (s : State) :
    (releaseReset mode s).table = (resetIn mode).table := rfl

@[simp] theorem releaseReset_acc (mode : TableInit) (s : State) :
    (releaseReset mode s).acc = (resetIn mode).acc := rfl

@[simp] theorem releaseReset_accv (mode : TableInit) (s : State) :
    (releaseReset mode s).accv = (resetIn mode).accv := rfl

@[simp] theorem releaseReset_err (mode : TableInit) (s : State) :
    (releaseReset mode s).err = (resetIn mode).err := rfl

@[simp] theorem releaseReset_gidx (mode : TableInit) (s : State) :
    (releaseReset mode s).gidx = (resetIn mode).gidx := rfl

@[simp] theorem releaseReset_cmdq (mode : TableInit) (s : State) :
    (releaseReset mode s).cmdq = (resetIn mode).cmdq := rfl

@[simp] theorem releaseReset_rspq (mode : TableInit) (s : State) :
    (releaseReset mode s).rspq = (resetIn mode).rspq := rfl

@[simp] theorem releaseReset_rst (mode : TableInit) (s : State) :
    (releaseReset mode s).rst = (resetIn mode).rst := rfl

@[simp] theorem releaseReset_plan (mode : TableInit) (s : State) :
    (releaseReset mode s).plan = s.plan := rfl

@[simp] theorem releaseReset_tick (mode : TableInit) (s : State) :
    (releaseReset mode s).tick = s.tick := rfl

/-! the reset state, both values of `TABLE_INIT` (R24) -/

@[simp] theorem resetIn_acc (mode : TableInit) : (resetIn mode).acc = none := by cases mode <;> rfl

@[simp] theorem resetIn_accv (mode : TableInit) : (resetIn mode).accv = false := by cases mode <;> rfl

@[simp] theorem resetIn_err (mode : TableInit) : (resetIn mode).err = false := by cases mode <;> rfl

@[simp] theorem resetIn_cmdq (mode : TableInit) : (resetIn mode).cmdq = [] := by cases mode <;> rfl

@[simp] theorem resetIn_rspq (mode : TableInit) : (resetIn mode).rspq = [] := by cases mode <;> rfl

@[simp] theorem resetIn_rst (mode : TableInit) : (resetIn mode).rst = false := by cases mode <;> rfl

@[simp] theorem resetIn_plan (mode : TableInit) : (resetIn mode).plan = [] := by cases mode <;> rfl

@[simp] theorem resetIn_tick (mode : TableInit) : (resetIn mode).tick = 0 := by cases mode <;> rfl

/-! what depends on the untouched fields only -/

@[simp] theorem respond_ready (st : Status) (res : U16) (s : State) : (respond st res s).ready = s.ready := rfl

@[simp] theorem respond_entry (st : Status) (res : U16) (s : State) (i : U8) : (respond st res s).entry i = s.entry i := rfl

@[simp] theorem raise_ready (e : PortError) (s : State) : (raise e s).ready = s.ready := rfl

@[simp] theorem raise_entry (e : PortError) (s : State) (i : U8) : (raise e s).entry i = s.entry i := rfl

@[simp] theorem turnTaken_ready (s : State) : (s.turnTaken).ready = s.ready := rfl

@[simp] theorem turnTaken_entry (s : State) (i : U8) : (s.turnTaken).entry i = s.entry i := rfl

end Sys2Proof.Machine
end

