-- ==== Sys2Proof/Laws/Table.lean ====
section
/-! SUPPORT. The laws of the table as a memory: a read after a write, the canonical form, and that a
table in canonical form is determined by what it reads. -/

namespace Sys2Proof.Machine

theorem Table.read_write_same (t : Table) (i : Nat) (v : U16) :
    Table.read (Table.write t i v) i = some v := by
  induction t with
  | nil => simp [Table.write, Table.read]
  | cons p rest ih =>
    obtain ⟨k, x⟩ := p
    simp only [Table.write]
    split
    · simp [Table.read]
    · split
      · simp [Table.read]
      · have : k ≠ i := fun h => ‹¬i = k› h.symm
        simp [Table.read, this, ih]

theorem Table.read_write_other (t : Table) {i j : Nat} (h : j ≠ i) (v : U16) :
    Table.read (Table.write t i v) j = Table.read t j := by
  induction t with
  | nil => simp [Table.write, Table.read, Ne.symm h]
  | cons p rest ih =>
    obtain ⟨k, x⟩ := p
    simp only [Table.write]
    split
    · simp [Table.read, Ne.symm h]
    · split
      · subst i; simp [Table.read, Ne.symm h]
      · simp [Table.read, ih]

/-- A lower bound may be lowered. -/
theorem Table.wfFrom_mono {lo lo' : Nat} (h : lo' ≤ lo) {t : Table} (ht : Table.wfFrom lo t = true) :
    Table.wfFrom lo' t = true := by
  cases t with
  | nil => rfl
  | cons p rest =>
    obtain ⟨k, x⟩ := p
    simp only [Table.wfFrom, Bool.and_eq_true, decide_eq_true_eq] at ht ⊢
    exact ⟨⟨le_trans h ht.1.1, ht.1.2⟩, ht.2⟩

theorem Table.wfFrom_write {lo i : Nat} (hlo : lo ≤ i) (hi : i < 256) (v : U16) {t : Table}
    (ht : Table.wfFrom lo t = true) : Table.wfFrom lo (Table.write t i v) = true := by
  induction t generalizing lo with
  | nil => simp [Table.write, Table.wfFrom, hlo, hi]
  | cons p rest ih =>
    obtain ⟨k, x⟩ := p
    simp only [Table.wfFrom, Bool.and_eq_true, decide_eq_true_eq] at ht
    simp only [Table.write]
    split
    · have hk : i + 1 ≤ k := by omega
      simp [Table.wfFrom, hlo, hi, hk, ht.1.2, ht.2]
    · split
      · subst i; simp [Table.wfFrom, hlo, hi, ht.2]
      · have hk : k + 1 ≤ i := by omega
        simp [Table.wfFrom, ht.1.1, ht.1.2, ih hk ht.2]

/-- A write within the index space keeps the canonical form. -/
theorem Table.wf_write {i : Nat} (hi : i < 256) (v : U16) {t : Table} (ht : Table.wf t = true) :
    Table.wf (Table.write t i v) = true :=
  Table.wfFrom_write (Nat.zero_le i) hi v ht

/-- No entry is listed below the lower bound. -/
theorem Table.read_below {lo i : Nat} (h : i < lo) {t : Table} (ht : Table.wfFrom lo t = true) :
    Table.read t i = none := by
  induction t generalizing lo with
  | nil => rfl
  | cons p rest ih =>
    obtain ⟨k, x⟩ := p
    simp only [Table.wfFrom, Bool.and_eq_true, decide_eq_true_eq] at ht
    have hk : k ≠ i := by omega
    simp [Table.read, hk, ih (by omega : i < k + 1) ht.2]

/-- No entry is listed outside the index space (R25). -/
theorem Table.read_outside {lo i : Nat} (h : 256 ≤ i) {t : Table} (ht : Table.wfFrom lo t = true) :
    Table.read t i = none := by
  induction t generalizing lo with
  | nil => rfl
  | cons p rest ih =>
    obtain ⟨k, x⟩ := p
    simp only [Table.wfFrom, Bool.and_eq_true, decide_eq_true_eq] at ht
    have hk : k ≠ i := by omega
    simp [Table.read, hk, ih ht.2]

theorem Table.ext_from {lo : Nat} {t u : Table} (ht : Table.wfFrom lo t = true)
    (hu : Table.wfFrom lo u = true) (h : ∀ i, Table.read t i = Table.read u i) : t = u := by
  induction t generalizing lo u with
  | nil =>
    cases u with
    | nil => rfl
    | cons q us => obtain ⟨k, x⟩ := q; simpa [Table.read] using h k
  | cons p ts ih =>
    obtain ⟨k, x⟩ := p
    cases u with
    | nil => simpa [Table.read] using h k
    | cons q us =>
      obtain ⟨k', x'⟩ := q
      simp only [Table.wfFrom, Bool.and_eq_true, decide_eq_true_eq] at ht hu
      have hk : k = k' := by
        rcases Nat.lt_trichotomy k k' with hlt | heq | hgt
        · have := h k
          simp [Table.read, Nat.ne_of_gt hlt, Table.read_below (by omega : k < k' + 1) hu.2] at this
        · exact heq
        · have := h k'
          simp [Table.read, Nat.ne_of_gt hgt, Table.read_below (by omega : k' < k + 1) ht.2] at this
      subst hk
      have hx : x = x' := by simpa [Table.read] using h k
      subst hx
      congr 1
      refine ih ht.2 hu.2 fun i => ?_
      by_cases hi : k = i
      · subst hi
        rw [Table.read_below (Nat.lt_succ_self k) ht.2, Table.read_below (Nat.lt_succ_self k) hu.2]
      · simpa [Table.read, hi] using h i

/-- Equal tables are equal lists: the canonical form is determined by the reads. -/
theorem Table.ext {t u : Table} (ht : Table.wf t = true) (hu : Table.wf u = true)
    (h : ∀ i, Table.read t i = Table.read u i) : t = u :=
  Table.ext_from ht hu h

/-- The table of the reset state is in canonical form, for each `TABLE_INIT`. -/
theorem resetIn_table_wf (mode : TableInit) : Table.wf (resetIn mode).table = true := by
  cases mode
  · rfl
  · decide +kernel

/-- GEN's step keeps the canonical form. -/
theorem genStep_table_wf {s : State} (h : Table.wf s.table = true) :
    Table.wf (genStep s).table = true := by
  unfold genStep
  split
  · exact Table.wf_write (BitVec.isLt _) _ h
  · exact h

end Sys2Proof.Machine
end

