-- ==== Sys2Proof/Laws/Ops.lean ====
section
/-! SUPPORT. One lemma per shared operation that says everything it can do; the meanings' proofs cite
these instead of unfolding the operations. -/

namespace Sys2Proof.Machine

theorem respond_eq (st : Status) (res : U16) (s : State) :
    respond st res s = { s with cmdq := s.cmdq.tail, rspq := s.rspq ++ [rspWord st res] } := rfl

theorem raise_eq (e : PortError) (s : State) :
    raise e s = { s with
      err := true
      cmdq := s.cmdq.tail
      rspq := s.rspq ++ [rspWord (errorStatus e) 0#16] } := rfl

theorem ready_iff {s : State} : s.ready = true ↔ s.gidx = 256#9 := by simp [State.ready]

theorem whenReady_of_ready {s : State} (h : s.ready = true) (k : Answer) : whenReady s k = k := by
  simp [whenReady, h]

theorem whenReady_of_not_ready {s : State} (h : s.ready = false) (k : Answer) :
    whenReady s k = .next s := by
  simp [whenReady, h, hold]

/-- What `whenReady` can answer with a next state: the hold, or the continuation's. -/
theorem whenReady_next {s t : State} {k : Answer} (h : whenReady s k = .next t) :
    (s.ready = false ∧ t = s) ∨ (s.ready = true ∧ k = .next t) := by
  cases hr : s.ready with
  | true => exact .inr ⟨rfl, by rwa [whenReady_of_ready hr] at h⟩
  | false =>
    rw [whenReady_of_not_ready hr] at h
    cases h
    exact .inl ⟨rfl, rfl⟩

theorem withAcc_of_no_seed {s : State} (h : s.accv = false) (k : U16 → Answer) :
    withAcc s k = .next (raise .noSeed s) := by
  simp [withAcc, h]

theorem withAcc_of_value {s : State} {a : U16} (h : s.accv = true) (ha : s.acc = some a)
    (k : U16 → Answer) : withAcc s k = k a := by
  simp [withAcc, h, ha]

/-- What `withAcc` can answer with a next state: the error NoSeed, or the continuation's. -/
theorem withAcc_next {s t : State} {k : U16 → Answer} (h : withAcc s k = .next t) :
    (s.accv = false ∧ t = raise .noSeed s) ∨
      (∃ a, s.accv = true ∧ s.acc = some a ∧ k a = .next t) := by
  cases hv : s.accv with
  | false =>
    rw [withAcc_of_no_seed hv] at h
    cases h
    exact .inl ⟨rfl, rfl⟩
  | true =>
    cases ha : s.acc with
    | none => simp [withAcc, hv, ha] at h
    | some a => exact .inr ⟨a, rfl, rfl, by rwa [withAcc_of_value hv ha] at h⟩

theorem withEntry_of_value {s : State} {i : U8} {v : U16} (h : s.entry i = some v)
    (k : U16 → Answer) : withEntry s i k = k v := by
  simp [withEntry, h]

/-- What `withEntry` can answer with a next state: the continuation's, from the entry read. -/
theorem withEntry_next {s t : State} {i : U8} {k : U16 → Answer} (h : withEntry s i k = .next t) :
    ∃ v, s.entry i = some v ∧ k v = .next t := by
  cases hv : s.entry i with
  | none => simp [withEntry, hv] at h
  | some v => exact ⟨v, rfl, by rwa [withEntry_of_value hv] at h⟩

/-- Over an entry that holds `gen`, the engine computes `upd` (R63). -/
theorem withUpd_of_gen {s : State} {a : U16} {b : U8}
    (h : s.entry (engineIndex a b) = some (gen (engineIndex a b))) (k : U16 → Answer) :
    withUpd s a b k = k (upd a b) := by
  simp [withUpd, withEntry_of_value h, upd]

theorem withUpd_next {s t : State} {a : U16} {b : U8} {k : U16 → Answer}
    (h : withUpd s a b k = .next t) :
    ∃ e, s.entry (engineIndex a b) = some e ∧ k (combine a e) = .next t :=
  withEntry_next h

/-- GEN's step where it is enabled (R58). -/
theorem genStep_of_lt {s : State} (h : s.gidx.toNat < 256) :
    genStep s = { s with
      table := Table.write s.table (genIndex s.gidx).toNat (gen (genIndex s.gidx))
      gidx := s.gidx + 1#9 } := by
  simp [genStep, h]

theorem genStep_of_not_lt {s : State} (h : ¬s.gidx.toNat < 256) : genStep s = s := by
  simp [genStep, h]

theorem genStep_index {s : State} (h : s.gidx.toNat < 256) :
    (genIndex s.gidx).toNat = s.gidx.toNat := by
  simp [genIndex, Nat.mod_eq_of_lt h]

theorem genStep_gidx_toNat {s : State} (h : s.gidx.toNat < 256) :
    (genStep s).gidx.toNat = s.gidx.toNat + 1 := by
  simp [genStep_of_lt h, BitVec.toNat_add]
  omega

end Sys2Proof.Machine
end

