-- ==== Sys2Proof/Laws/PerInstr.lean ====
section
/-! SUPPORT. Statements made per command: the word of a command matches its own row of the
(match, mask) table of spec/30_encoding.md R43. -/

namespace Sys2Proof.Laws.MatchesRow

/-- The `match` column of R43. -/
def rowMatch : Instr → U32
  | .update _ _ => 0x10000000#32
  | .seed _ => 0x20000000#32
  | .feed _ => 0x30000000#32
  | .read => 0x40000000#32
  | .tread _ => 0x50000000#32
  | .stat => 0x60000000#32

/-- The `mask` column of R43. -/
def rowMask : Instr → U32
  | .update _ _ => 0xFF000000#32
  | .seed _ => 0xFF0000FF#32
  | .feed _ => 0xFFFFFF00#32
  | .read => 0xFFFFFFFF#32
  | .tread _ => 0xFFFFFF00#32
  | .stat => 0xFFFFFFFF#32

/-- The word of the command spells its row: `(w & mask) == match` (R43). -/
def Statement (i : Instr) : Prop := encode i &&& rowMask i = rowMatch i

theorem update (acc : U16) (byte : U8) : Statement (.update acc byte) := by
  refine BitVec.eq_of_getLsbD_eq fun j hj => ?_
  simp only [encode, rowMask, rowMatch, BitVec.getLsbD_and, Machine.getLsbD_cmdWord]
  interval_cases j <;> simp

theorem seed (a : U16) : Statement (.seed a) := by
  refine BitVec.eq_of_getLsbD_eq fun j hj => ?_
  simp only [encode, rowMask, rowMatch, BitVec.getLsbD_and, Machine.getLsbD_cmdWord]
  interval_cases j <;> simp

theorem feed (byte : U8) : Statement (.feed byte) := by
  refine BitVec.eq_of_getLsbD_eq fun j hj => ?_
  simp only [encode, rowMask, rowMatch, BitVec.getLsbD_and, Machine.getLsbD_cmdWord]
  interval_cases j <;> simp

theorem read : Statement .read := by
  unfold Statement; decide

theorem tread (index : U8) : Statement (.tread index) := by
  refine BitVec.eq_of_getLsbD_eq fun j hj => ?_
  simp only [encode, rowMask, rowMatch, BitVec.getLsbD_and, Machine.getLsbD_cmdWord]
  interval_cases j <;> simp

theorem stat : Statement .stat := by
  unfold Statement; decide

end Sys2Proof.Laws.MatchesRow
end

