-- ==== Sys2Proof/Laws/Turns.lean ====
section
/-! SUPPORT. What one turn and one step can do (spec/00_scope.md R5, spec/60_exceptions.md R90). -/

namespace Sys2Proof.Machine

theorem executeWord_ok {w : U32} {i : Instr} (h : decode w = .ok i) (s : State) :
    executeWord w s = exec i s := by
  simp [executeWord, h]

theorem executeWord_error {w : U32} {e : DecodeError} (h : decode w = .error e) (s : State) :
    executeWord w s = .next (raise .illegal s) := by
  simp [executeWord, h]

/-- What executing a word can answer: the error Illegal, or its command's own answer. -/
theorem executeWord_cases (w : U32) (s : State) :
    ((∃ e, decode w = .error e) ∧ executeWord w s = .next (raise .illegal s)) ∨
      (∃ i, decode w = .ok i ∧ executeWord w s = exec i s) := by
  cases h : decode w with
  | error e => exact .inl ⟨⟨e, rfl⟩, executeWord_error h s⟩
  | ok i => exact .inr ⟨i, rfl, executeWord_ok h s⟩

theorem execTurn_empty {s : State} (h : s.cmdq = []) : execTurn s = .next s := by
  simp [execTurn, h]

theorem execTurn_cons {s : State} {w : U32} {ws : List U32} (h : s.cmdq = w :: ws) :
    execTurn s = executeWord w s := by
  simp [execTurn, h]

theorem takeTurn_gen {s : State} (h : s.rst = false) (mode : TableInit) :
    takeTurn mode .gen s = .next (genStep s) := by
  simp [takeTurn, h]

theorem takeTurn_exec {s : State} (h : s.rst = false) (mode : TableInit) :
    takeTurn mode .exec s = execTurn s := by
  simp [takeTurn, h]

theorem takeTurn_host {s : State} (h : s.rst = false) (mode : TableInit) (a : HostAction) :
    takeTurn mode (.host a) s = .next (hostTurn a s) := by
  simp [takeTurn, h]

/-- What a turn can do: nothing but the release while `RST` is asserted, else the agent's own turn. -/
theorem takeTurn_cases (mode : TableInit) (t : Turn) (s : State) :
    (s.rst = true ∧ t = .host .releaseRst ∧ takeTurn mode t s = .next (releaseReset mode s)) ∨
      (s.rst = true ∧ t ≠ .host .releaseRst ∧ takeTurn mode t s = .next s) ∨
      (s.rst = false ∧ t = .gen ∧ takeTurn mode t s = .next (genStep s)) ∨
      (s.rst = false ∧ t = .exec ∧ takeTurn mode t s = execTurn s) ∨
      (∃ a, s.rst = false ∧ t = .host a ∧ takeTurn mode t s = .next (hostTurn a s)) := by
  cases h : s.rst with
  | false =>
    cases t with
    | gen => exact .inr (.inr (.inl ⟨rfl, rfl, takeTurn_gen h mode⟩))
    | exec => exact .inr (.inr (.inr (.inl ⟨rfl, rfl, takeTurn_exec h mode⟩)))
    | host a => exact .inr (.inr (.inr (.inr ⟨a, rfl, rfl, takeTurn_host h mode a⟩)))
  | true =>
    cases t with
    | gen => simp [takeTurn, h]
    | exec => simp [takeTurn, h]
    | host a => cases a <;> simp [takeTurn, h]

theorem turn_cons {pick : Nat → Turn} {s : State} {t : Turn} {ts : List Turn} (h : s.plan = t :: ts) :
    s.turn pick = t := by
  simp [State.turn, h]

theorem turn_nil {pick : Nat → Turn} {s : State} (h : s.plan = []) : s.turn pick = pick s.tick := by
  simp [State.turn, h]

theorem step_eq (s : State) :
    step s = takeTurn Config.tableInit (s.turn Config.turn) s.turnTaken := rfl

theorem stepIn_eq (mode : TableInit) (pick : Nat → Turn) (s : State) :
    stepIn mode pick s = takeTurn mode (s.turn pick) s.turnTaken := rfl

@[simp] theorem runIn_zero (mode : TableInit) (pick : Nat → Turn) (s : State) :
    runIn mode pick 0 s = .next s := rfl

theorem runIn_succ_of_next {mode : TableInit} {pick : Nat → Turn} {s t : State} (n : Nat)
    (h : stepIn mode pick s = .next t) : runIn mode pick (n + 1) s = runIn mode pick n t := by
  have h' : (coreIn mode pick).step s = .next t := h
  simp only [runIn, Host.Core.run, h']
  rfl

end Sys2Proof.Machine
end

