-- ==== Sys2Proof/Laws/Pseudo.lean ====
section
/-! SUPPORT. What HOST's procedures of spec/30_encoding.md R52 can do: sending, waiting by one EXEC turn,
and the value of a response. -/

namespace Sys2Proof.Machine

/-- Sending appends the words to `CMDQ`, in order, and changes nothing else. -/
theorem sendAll_eq (mode : TableInit) (ws : List U32) {s : State} (h : s.rst = false) :
    sendAll mode ws s = some { s with cmdq := s.cmdq ++ ws } := by
  induction ws generalizing s with
  | nil => rw [sendAll, if_neg (by simp [h]), List.append_nil]
  | cons w ws ih =>
    simp only [sendAll, takeTurn_host h]
    rw [ih (by exact h)]
    simp [hostTurn]

theorem sendAll_asserted (mode : TableInit) (ws : List U32) {s : State} (h : s.rst = true) :
    sendAll mode ws s = none := by
  induction ws with
  | nil => simp [sendAll, h]
  | cons w ws ih => simp [sendAll, takeTurn, h, ih]

theorem awaitAnswers_empty (mode : TableInit) (n : Nat) {s : State} (h : s.cmdq = []) :
    awaitAnswers mode (n + 1) s = some s := by
  simp [awaitAnswers, h]

/-- Where the head of `CMDQ` is executed, the waiting goes on after it. -/
theorem awaitAnswers_executed (mode : TableInit) (n : Nat) {s t : State} {w : U32} {ws : List U32}
    (hr : s.rst = false) (hq : s.cmdq = w :: ws) (he : executeWord w s = .next t)
    (ht : t.cmdq = ws) : awaitAnswers mode (n + 1) s = awaitAnswers mode n t := by
  have hne : ws ≠ w :: ws := fun h => by simpa using congrArg List.length h
  simp [awaitAnswers, hq, takeTurn_exec hr, execTurn_cons hq, he, ht, hne]

/-- Where the head of `CMDQ` holds, GEN takes a turn and the waiting goes on. -/
theorem awaitAnswers_held (mode : TableInit) (n : Nat) {s : State} {w : U32} {ws : List U32}
    (hr : s.rst = false) (hq : s.cmdq = w :: ws) (he : executeWord w s = .next s) :
    awaitAnswers mode (n + 1) s = awaitAnswers mode n (genStep s) := by
  simp [awaitAnswers, hq, takeTurn_exec hr, execTurn_cons hq, he, takeTurn_gen hr]

theorem submitAll_eq (mode : TableInit) (ws : List U32) {s : State} (h : s.rst = false) :
    submitAll mode ws s = awaitAnswers mode ((s.cmdq ++ ws).length + 257)
      { s with cmdq := s.cmdq ++ ws } := by
  simp only [submitAll, sendAll_eq mode ws h, Option.bind_some]

@[simp] theorem okValue_ok (v : U16) : okValue (rspWord .ok v) = some v := by
  simp [okValue, Status.code]

@[simp] theorem okValue_illegal : okValue (rspWord .illegal 0#16) = none := by decide

@[simp] theorem okValue_noSeed : okValue (rspWord .noSeed 0#16) = none := by decide

end Sys2Proof.Machine
end

