-- ==== Sys2Proof/Tests/Slice0.lean ====
section
/-! SUPPORT. Tests whose expected results are written in spec/, and for every claim with hypotheses a
witness that meets them together. -/

namespace Sys2Proof.Tests

open Sys2Proof.Machine

/-! ## Well-formedness (R51): an ill-formed term for each check -/

theorem test_wf_update_acc : (Source.update 65536 0).wellFormed = false := by decide
theorem test_wf_update_byte : (Source.update 0 256).wellFormed = false := by decide
theorem test_wf_seed : (Source.seed 65536).wellFormed = false := by decide
theorem test_wf_feed : (Source.feed 256).wellFormed = false := by decide
theorem test_wf_tread : (Source.tread 256).wellFormed = false := by decide
theorem test_wf_fits : (Source.update 65535 255).wellFormed = true := by decide

/-! ## Decoding, every command's word written out from R42 and R43 (V13), and illegal words (V14) -/

theorem test_decode_update :
    decode 0b0001_0000_0001001000110100_01010110#32 = .ok (.update 0x1234#16 0x56#8) := by decide
theorem test_decode_update_top :
    decode 0x10FFFFFF#32 = .ok (.update 0xFFFF#16 0xFF#8) := by decide
theorem test_decode_seed :
    decode 0b0010_0000_0001110100001111_00000000#32 = .ok (.seed 0x1D0F#16) := by decide
theorem test_decode_feed :
    decode 0b0011_0000_0000000000000000_00110001#32 = .ok (.feed 0x31#8) := by decide
theorem test_decode_read : decode 0b0100_0000_0000000000000000_00000000#32 = .ok .read := by decide
theorem test_decode_tread :
    decode 0b0101_0000_0000000000000000_10000000#32 = .ok (.tread 0x80#8) := by decide
theorem test_decode_stat : decode 0b0110_0000_0000000000000000_00000000#32 = .ok .stat := by decide

theorem test_illegal_zero : decode 0x00000000#32 = .error .noSuchOpcode := by decide
theorem test_illegal_op7 : decode 0x70000000#32 = .error .noSuchOpcode := by decide
theorem test_illegal_rsv : decode 0x11123456#32 = .error .reservedNotZero := by decide
theorem test_illegal_seed_b : decode 0x20123401#32 = .error .unusedNotZero := by decide
theorem test_illegal_feed_a : decode 0x30000131#32 = .error .unusedNotZero := by decide
theorem test_illegal_read_a : decode 0x40000100#32 = .error .unusedNotZero := by decide
theorem test_illegal_tread_a : decode 0x50010000#32 = .error .unusedNotZero := by decide
theorem test_illegal_stat_b : decode 0x60000001#32 = .error .unusedNotZero := by decide

theorem test_encode_update : encode (.update 0x1234#16 0x56#8) = 0x10123456#32 := by decide
theorem test_encode_seed : encode (.seed 0xFFFF#16) = 0x20FFFF00#32 := by decide

theorem test_table_word : decodeTableWord 32 0x50000080 = some (.tread 0x80#8) := by decide

/-! ## The functions: V1, V2 (a register in mid-trace), V3, V4 -/

theorem test_lfsr1 : lfsr1 0x9188#16 = 0x3331#16 := by decide
theorem test_gen_trace : lfsrSteps 4 (inHighByte 0xA5#8) = 0xF14A#16 := by decide
theorem test_gen : gen 0xA5#8 = 0xE54F#16 := by decide
theorem test_upd : upd 0xA55A#16 0x5A#8 = 0x44F0#16 := by decide
theorem test_compute : compute 0xFFFF#16 [0x31#8, 0x32#8, 0x33#8] = 0x5BCE#16 := by decide +kernel

/-! ## The assembler's notation (R51, V13, P3) -/

theorem test_asm_line :
    assembleLine ['U', 'P', 'D', 'A', 'T', 'E', ' ', '0', 'x', '1', '2', '3', '4', ',', ' ', '8', '6',
      ' ', ';', 'x'] = .ok (some 0x10123456#32) := by decide +kernel
theorem test_asm_does_not_fit :
    assembleLine ['F', 'E', 'E', 'D', ' ', '0', 'x', '1', '0', '0'] = .error .doesNotFit := by
  decide +kernel
theorem test_response_text :
    responseText .ok 0x31C3#16 = ['-', '>', ' ', 'O', 'K', ':', '0', 'x', '3', '1', 'C', '3'] := by
  decide +kernel

/-! ## Single transitions of V17, V18 -/

/-- A ready, seeded block: `(256, 0xABCD, 1, 0)` of V17. -/
def readyState : State := { resetIn .literal with acc := some 0xABCD#16, accv := true }

/-- Its command has been answered with `r`, and `ACC` is now `a`. -/
def answeredWith (r : U32) (a : U16) (o : Answer) : Bool :=
  match o with
  | .next t => decide (t.rspq = [r]) && decide (t.acc = some a) && !t.err
  | _ => false

theorem test_update_ready :
    answeredWith 0x00003C40#32 0xABCD#16 (executeWord 0x10123456#32 readyState) = true := by
  decide +kernel
theorem test_feed_ready :
    answeredWith 0x0000CD00#32 0xCD00#16 (executeWord 0x300000AB#32 readyState) = true := by
  decide +kernel
theorem test_tread_ready :
    answeredWith 0x00009188#32 0xABCD#16 (executeWord 0x50000080#32 readyState) = true := by
  decide +kernel
theorem test_read_not_ready :
    answeredWith 0x0000ABCD#32 0xABCD#16
      (executeWord 0x40000000#32 { State.reset with acc := some 0xABCD#16, accv := true }) = true := by
  decide +kernel
theorem test_seed_not_ready :
    answeredWith 0x0000ABCD#32 0xABCD#16 (executeWord 0x20ABCD00#32 State.reset) = true := by
  decide +kernel
theorem test_stat_ready :
    answeredWith 0x00000003#32 0xABCD#16 (executeWord 0x60000000#32 readyState) = true := by
  decide +kernel
theorem test_update_holds :
    nextState (executeWord 0x10123456#32 { State.reset with gidx := 255#9 }) =
      some { State.reset with gidx := 255#9 } := by decide +kernel
theorem test_tread_holds :
    nextState (executeWord 0x50000001#32 { State.reset with gidx := 100#9 }) =
      some { State.reset with gidx := 100#9 } := by decide +kernel
theorem test_feed_no_seed_before_hold :
    nextState (executeWord 0x30000031#32 State.reset) =
      some { State.reset with err := true, rspq := [0x00020000#32] } := by decide +kernel
theorem test_illegal_before_no_seed :
    nextState (executeWord 0x30000131#32 State.reset) =
      some { State.reset with err := true, rspq := [0x00010000#32] } := by decide +kernel
theorem test_gen_step :
    genStep { State.reset with gidx := 49#9 } =
      { State.reset with gidx := 50#9, table := [(0x31, 0x2672#16)] } := by decide +kernel

/-- The first step after reset runs the command placed: an unseeded `FEED` is answered NoSeed. -/
theorem test_first_step_runs_command :
    nextState (step (State.reset.withFetchWord 32 0x30000031)) =
      some { State.reset with err := true, rspq := [0x00020000#32], tick := 1 } := by decide +kernel

/-! ## Pseudo-operations (R52, V4, V10) -/

theorem test_crc16_update_value :
    (crc16UpdateValue .literal 0x1234#16 0x56#8 readyState).map Prod.snd = some 0x3C40#16 := by
  decide +kernel
theorem test_compute_text_value :
    (computeTextValue .literal 0x0000#16 ['A', 'B'] readyState).map Prod.snd = some 0x567B#16 := by
  decide +kernel
theorem test_compute_empty_value :
    (computeValue .generated 0xBEEF#16 [] State.reset).map Prod.snd = some 0xBEEF#16 := by
  decide +kernel
theorem test_compute_x_value :
    (computeX .literal 0xFFFF#16 [([0x40000001#32], 0x31#8), ([], 0x32#8)] readyState).map Prod.snd =
      some 0x3DBA#16 := by decide +kernel

/-! ## Witnesses: states and operands that meet the hypotheses of each claim -/

theorem readyState_blockInv : BlockInv readyState where
  tableWf := by decide +kernel
  tableFilled := by unfold TableFilled; decide +kernel
  gidxLe := by decide
  accvIff := by decide

theorem readyState_ready : readyState.ready = true := by decide

/-- An answer that is a next state with a property has such a next state. -/
theorem next_of_check {p : State → Bool} {o : Answer}
    (h : (nextState o).any p = true) : ∃ t, o = .next t ∧ p t = true := by
  cases o with
  | next t => exact ⟨t, rfl, by simpa [nextState] using h⟩
  | fault r => simp [nextState] at h
  | refused r => simp [nextState] at h

/-- `BlockInv` says nothing of the queues and the order of turns. -/
theorem readyState_with {q : List U32} {ts : List Turn} :
    BlockInv { readyState with cmdq := q, plan := ts } :=
  ⟨readyState_blockInv.tableWf, readyState_blockInv.tableFilled, readyState_blockInv.gidxLe,
    readyState_blockInv.accvIff⟩

theorem witness_DecodeOfEncode : (Instr.update 0xFFFF#16 0xFF#8).wellFormed = true := by decide
theorem witness_EncodeOfDecode : decode 0x50000080#32 = .ok (.tread 0x80#8) := by decide
theorem witness_IllegalWords : ∃ e, decode 0x61000000#32 = .error e :=
  ⟨.reservedNotZero, by decide⟩
theorem witness_OperandsFitOrError :
    (Source.seed 65535).wellFormed = true ∧ (Source.seed 65536).wellFormed = false := by decide
theorem witness_EngineIsBijective : (0x30#8 : U8) ≠ 0x31#8 := by decide
theorem witness_TableIndexForms :
    highByte 0x1234#16 = highByte 0x12FF#16 ∧ (255#9).toNat < 256 := by decide
theorem witness_SingleBitFlipChangesResult :
    [0x31#8, 0x32#8][1]? = some (0x32#8 : U8) ∧ 7 < 8 := by decide
theorem witness_ResetDiscardsAll :
    ({ readyState with rst := true, plan := [.host .releaseRst] } : State).turn (fun _ => .gen) =
        .host .releaseRst ∧
      ({ readyState with rst := true, plan := [.exec] } : State).turn (fun _ => .gen) ≠
        .host .releaseRst := by decide
theorem witness_OnlyReleaseClears :
    BlockInv { readyState with cmdq := [0x60000000#32], plan := [.exec] } ∧
      (∃ t, stepIn .generated (fun _ => .gen)
        { readyState with cmdq := [0x60000000#32], plan := [.exec] } = .next t) ∧
      readyState.rst = false :=
  ⟨readyState_with, ⟨_, rfl⟩, rfl⟩
theorem witness_GenTurnFillsOneEntry :
    State.reset.rst = false ∧ State.reset.gidx.toNat < 256 := by decide
theorem witness_GenTurnsFillInOrder :
    256 ≤ 256 ∧ readyState.rst = false ∧ readyState.gidx = 256#9 := by decide
theorem witness_ReadyBlocksAnswerAlike :
    ∃ (s1 s2 : State) (ws : List U32), BlockInv s1 ∧ BlockInv s2 ∧ s1.ready = true ∧ s2.ready = true ∧
      s1.rst = false ∧ s2.rst = false ∧ s1.acc = s2.acc ∧ s1.accv = s2.accv ∧ s1.err = s2.err ∧
      s1.cmdq = ws ∧ s2.cmdq = ws ∧ s1.plan = List.replicate ws.length .exec ∧
      s2.plan = List.replicate ws.length .exec ∧ s1.rspq ≠ s2.rspq :=
  ⟨{ readyState with cmdq := [0x30000000#32], plan := List.replicate 1 .exec },
    { readyState with cmdq := [0x30000000#32], plan := List.replicate 1 .exec, rspq := [0#32] },
    [0x30000000#32], readyState_with,
    ⟨readyState_blockInv.tableWf, readyState_blockInv.tableFilled, readyState_blockInv.gidxLe,
      readyState_blockInv.accvIff⟩,
    by decide, by decide, rfl, rfl, rfl, rfl, rfl, rfl, rfl, rfl, rfl, by decide⟩
theorem witness_UpdateAnswers : BlockInv readyState ∧ readyState.ready = true :=
  ⟨readyState_blockInv, readyState_ready⟩
theorem witness_FeedFoldsByte :
    BlockInv readyState ∧ readyState.ready = true ∧ readyState.accv = true ∧
      readyState.acc = some 0xABCD#16 :=
  ⟨readyState_blockInv, readyState_ready, rfl, rfl⟩
theorem witness_ReadAnswersAcc : readyState.accv = true ∧ readyState.acc = some 0xABCD#16 :=
  ⟨rfl, rfl⟩
theorem witness_TreadAnswersEntry : BlockInv readyState ∧ readyState.ready = true :=
  ⟨readyState_blockInv, readyState_ready⟩
theorem witness_TableCommandsHold :
    ({ State.reset with gidx := 255#9, acc := some 0xABCD#16, accv := true } : State).ready = false ∧
      ({ State.reset with gidx := 255#9, acc := some 0xABCD#16, accv := true } : State).acc =
        some 0xABCD#16 := by decide
theorem witness_UnseededIsNoSeed : State.reset.accv = false := by decide
/-- A seeded block with GEN not finished: `(2, 0xABCD, 1, 0)`. -/
def holdingState : State :=
  { State.reset with
    table := [(0, 0x0000#16), (1, 0x1021#16)], gidx := 2#9, acc := some 0xABCD#16, accv := true }

theorem holdingState_blockInv : BlockInv holdingState where
  tableWf := by decide
  tableFilled := by unfold TableFilled; decide +kernel
  gidxLe := by decide
  accvIff := by decide

/-- An unseeded block with GEN not finished and an error recorded. -/
theorem unseeded_blockInv : BlockInv { holdingState with acc := none, accv := false, err := true } :=
  ⟨holdingState_blockInv.tableWf, holdingState_blockInv.tableFilled, holdingState_blockInv.gidxLe,
    by decide⟩

/-- One state for each clause: an illegal word anywhere, an unseeded `READ`, a held `UPDATE`, an
executed one. -/
theorem witness_OrderOfJudgement :
    decode 0x70000000#32 = .error .noSuchOpcode ∧
      (BlockInv { holdingState with acc := none, accv := false, err := true } ∧
        decode 0x40000000#32 = .ok .read) ∧
      (BlockInv holdingState ∧ holdingState.ready = false ∧
        decode 0x10123456#32 = .ok (.update 0x1234#16 0x56#8)) ∧
      (BlockInv readyState ∧ readyState.accv = true ∧ readyState.ready = true) :=
  ⟨by decide, ⟨unseeded_blockInv, by decide⟩, ⟨holdingState_blockInv, by decide, by decide⟩,
    readyState_blockInv, rfl, readyState_ready⟩
theorem witness_OneResponsePerCommand :
    (∃ t, executeWord 0x60000000#32 State.reset = .next t) ∧
      executeWord 0x10123456#32 State.reset = .next State.reset :=
  ⟨⟨_, rfl⟩, rfl⟩
theorem witness_ErrorsArePrecise :
    ∃ t, executeWord 0x40000000#32 State.reset = .next t ∧
      t.rspq = State.reset.rspq ++ [0x00020000#32] ∧ stField 0x00020000#32 ≠ 0#2 :=
  ⟨_, rfl, by decide, by decide⟩
theorem witness_NoCommandWritesTable : ∃ t, executeWord 0x20ABCD00#32 readyState = .next t :=
  ⟨_, rfl⟩
theorem witness_UpdateIgnoresAcc :
    (∃ t, exec (.update 0x1234#16 0x56#8) readyState = .next t) ∧
      (∃ t, exec (.tread 0x80#8) readyState = .next t) ∧ (∃ t, exec .stat readyState = .next t) := by
  refine ⟨?_, ?_, _, rfl⟩
  · obtain ⟨t, h, _⟩ := next_of_check (p := fun _ => true)
      (o := exec (.update 0x1234#16 0x56#8) readyState) (by decide +kernel)
    exact ⟨t, h⟩
  · obtain ⟨t, h, _⟩ := next_of_check (p := fun _ => true)
      (o := exec (.tread 0x80#8) readyState) (by decide +kernel)
    exact ⟨t, h⟩
theorem witness_StopsExactlyWhere :
    exec .read { State.reset with accv := true } = .fault .accHoldsNoValue ∧
      exec (.feed 0#8) { State.reset with accv := true } = .fault .accHoldsNoValue ∧
      exec (.feed 0#8) { State.reset with accv := true, acc := some 0#16, gidx := 256#9 } =
        .fault .entryHoldsNoValue ∧
      exec (.update 0#16 255#8) { State.reset with gidx := 256#9 } = .fault .entryHoldsNoValue ∧
      exec (.tread 0#8) { State.reset with gidx := 256#9 } = .fault .entryHoldsNoValue :=
  ⟨rfl, rfl, rfl, rfl, rfl⟩
theorem witness_StepRunsHeadCommand :
    State.reset.rst = false ∧
    ({ State.reset with cmdq := [0x60000000#32], plan := [.exec] } : State).turn Config.turn = .exec ∧
      decode 0x60000000#32 = .ok .stat ∧ decode 0#32 = .error .noSuchOpcode := by
  exact ⟨rfl, rfl, by decide, by decide⟩
theorem witness_HostTurns :
    ({ State.reset with rspq := [0#32] } : State).rst = false ∧ State.reset.rspq = [] := by decide
theorem witness_StepKeepsBlockInv :
    BlockInv { readyState with plan := [.gen] } ∧
      (∃ t, step { readyState with plan := [.gen] } = .next t) :=
  ⟨⟨readyState_blockInv.tableWf, readyState_blockInv.tableFilled, readyState_blockInv.gidxLe,
    readyState_blockInv.accvIff⟩, ⟨_, rfl⟩⟩
theorem witness_NoStepStops : BlockInv readyState := readyState_blockInv
theorem witness_StepKeepsResponsesLegal :
    ResponsesLegal { readyState with rspq := [0x00020000#32], plan := [.gen] } ∧
      (∃ t, stepIn .literal (fun _ => .gen)
        { readyState with rspq := [0x00020000#32], plan := [.gen] } = .next t) := by
  refine ⟨fun r hr => ?_, _, rfl⟩
  rw [List.mem_singleton.1 hr]
  unfold LegalResponse
  decide
theorem witness_ReadyTableIsConstant :
    readyState.ready = true ∧ readyState.rst = false ∧
      (∃ t, stepIn .literal (fun _ => .gen) readyState = .next t) :=
  ⟨readyState_ready, rfl, ⟨_, rfl⟩⟩
/-- One state below `GIDX == 255` with a `STAT`, and one at it for each other case. -/
theorem witness_GenAndExecCommute :
    ((254#9).toNat < 255 ∧
      (∃ t, execTurn { State.reset with gidx := 254#9, cmdq := [0x60000000#32] } = .next t)) ∧
      (∃ t, execTurn { State.reset with gidx := 255#9 } = .next t) ∧
      ((∃ e, decode 0#32 = .error e) ∧
        (∃ t, execTurn { State.reset with gidx := 255#9, cmdq := [0#32] } = .next t)) ∧
      ((∃ a, decode 0x20ABCD00#32 = .ok (.seed a)) ∧
        (∃ t, execTurn { State.reset with gidx := 255#9, cmdq := [0x20ABCD00#32] } = .next t)) ∧
      (decode 0x40000000#32 = .ok .read ∧
        (∃ t, execTurn { State.reset with gidx := 255#9, cmdq := [0x40000000#32] } = .next t)) ∧
      (((∃ b, decode 0x30000031#32 = .ok (.feed b)) ∧ State.reset.accv = false) ∧
        (∃ t, execTurn { State.reset with gidx := 255#9, cmdq := [0x30000031#32] } = .next t)) :=
  ⟨⟨by decide, _, rfl⟩, ⟨_, rfl⟩, ⟨⟨.noSuchOpcode, by decide⟩, _, rfl⟩,
    ⟨⟨0xABCD#16, by decide⟩, _, rfl⟩, ⟨by decide, _, rfl⟩, ⟨⟨⟨0x31#8, by decide⟩, rfl⟩, _, rfl⟩⟩

/-- A stream of one byte, with a `TREAD` between its commands. -/
def streamState : State :=
  { readyState with
    cmdq := [0x20123400#32, 0x50000080#32, 0x30000056#32, 0x40000000#32]
    plan := List.replicate 4 .exec }

theorem witness_StreamComputes :
    BlockInv streamState ∧ streamState.rst = false ∧ HostQuiet streamState.plan ∧
      streamState.cmdq.filterMap streamCommand = computeCommands 0x1234#16 [0x56#8] ∧
      (∃ t, runIn .literal (fun _ => .gen) streamState.plan.length streamState = .next t ∧
        t.cmdq = []) := by
  refine ⟨readyState_with, rfl, by unfold HostQuiet; decide, by decide +kernel, ?_⟩
  obtain ⟨t, h, ht⟩ := next_of_check (p := fun t => decide (t.cmdq = []))
    (o := runIn .literal (fun _ => .gen) streamState.plan.length streamState) (by decide +kernel)
  exact ⟨t, h, of_decide_eq_true ht⟩
/-- A block whose GEN has not finished, with nothing pending. -/
theorem witness_ChainComputes :
    BlockInv holdingState ∧ holdingState.ready = false ∧ holdingState.rst = false ∧
      holdingState.cmdq = [] ∧ (∀ p ∈ [(([] : List U32), (0x31#8 : U8))], p.1 = []) :=
  ⟨holdingState_blockInv, by decide, rfl, rfl, by decide⟩
theorem witness_Crc16UpdateHasValue :
    BlockInv holdingState ∧ holdingState.rst = false ∧ holdingState.cmdq = [] :=
  ⟨holdingState_blockInv, rfl, rfl⟩
theorem witness_ComputeHasValue :
    BlockInv holdingState ∧ holdingState.rst = false ∧ (∀ c ∈ ['A', 'B'], c.toNat < 128) ∧
      (∃ c ∈ ['A', 'é'], 128 ≤ c.toNat) :=
  ⟨holdingState_blockInv, rfl, by simp, 'é', by simp, by decide⟩
theorem witness_GeneratedBecomesLiteral : BlockInv readyState ∧ readyState.ready = true :=
  ⟨readyState_blockInv, readyState_ready⟩

theorem witness_InterleavedStreamsDamage :
    ∃ s : State, BlockInv s ∧ s.ready = true ∧ s.rst = false ∧ s.plan = List.replicate 5 .exec ∧
      s.cmdq = [encode (.seed 0#16), encode (.feed 0x31#8), encode (.seed 0xFFFF#16),
        encode (.feed 0x32#8), encode .read] :=
  ⟨{ readyState with
      cmdq := [encode (.seed 0#16), encode (.feed 0x31#8), encode (.seed 0xFFFF#16),
        encode (.feed 0x32#8), encode .read]
      plan := List.replicate 5 .exec },
    readyState_with, by decide, rfl, rfl, rfl⟩

/-- GEN and EXEC in turn. -/
def alternate (n : Nat) : Turn := if n % 2 = 0 then .gen else .exec

theorem alternate_recurs : Recurs alternate .gen ∧ Recurs alternate .exec := by
  refine ⟨fun n => ⟨2 * n, by omega, ?_⟩, fun n => ⟨2 * n + 1, by omega, ?_⟩⟩
  · simp [alternate]
  · simp [alternate]

theorem witness_FairGenReachesReady :
    BlockInv readyState ∧ readyState.rst = false ∧ readyState.plan = [] ∧
      (∀ n, alternate n ≠ .host .assertRst) ∧ Recurs alternate .gen := by
  refine ⟨readyState_blockInv, rfl, rfl, fun n => ?_, alternate_recurs.1⟩
  unfold alternate
  split <;> simp
theorem witness_FiniteRunEnds :
    BlockInv { readyState with cmdq := [0x60000000#32] } ∧ readyState.rst = false ∧
      readyState.plan = [] ∧ (∀ n, alternate n = .gen ∨ alternate n = .exec) ∧ Recurs alternate .gen ∧
      Recurs alternate .exec := by
  refine ⟨⟨readyState_blockInv.tableWf, readyState_blockInv.tableFilled, readyState_blockInv.gidxLe,
    readyState_blockInv.accvIff⟩, rfl, rfl, fun n => ?_, alternate_recurs⟩
  unfold alternate
  split <;> simp

end Sys2Proof.Tests
end

section
/-! SUPPORT. What executing a command can do: the next states of each meaning, with their guards, and the
three kinds of effect a word can have (spec/00_scope.md R9, spec/60_exceptions.md R90). -/

namespace Sys2Proof.Machine

/-- `UPDATE` holds, or answers from the one entry it reads (R75). -/
theorem execUpdate_next {acc : U16} {byte : U8} {s t : State} (h : execUpdate acc byte s = .next t) :
    (s.ready = false ∧ t = s) ∨
      (s.ready = true ∧ ∃ e, s.entry (engineIndex acc byte) = some e ∧
        t = respond .ok (combine acc e) s) := by
  obtain held | ⟨hr, hk⟩ := whenReady_next h
  · exact .inl held
  · obtain ⟨e, he, hn⟩ := withUpd_next hk
    cases hn
    exact .inr ⟨hr, e, he, rfl⟩

/-- `FEED` is an error without a seed, then holds, or stores and answers the new value (R77). -/
theorem execFeed_next {byte : U8} {s t : State} (h : execFeed byte s = .next t) :
    (s.accv = false ∧ t = raise .noSeed s) ∨
      (∃ a, s.accv = true ∧ s.acc = some a ∧
        ((s.ready = false ∧ t = s) ∨
          (s.ready = true ∧ ∃ e, s.entry (engineIndex a byte) = some e ∧
            t = respond .ok (combine a e) { s with acc := some (combine a e) }))) := by
  obtain noSeed | ⟨a, hv, ha, hk⟩ := withAcc_next h
  · exact .inl noSeed
  · refine .inr ⟨a, hv, ha, ?_⟩
    obtain held | ⟨hr, hk⟩ := whenReady_next hk
    · exact .inl held
    · obtain ⟨e, he, hn⟩ := withUpd_next hk
      cases hn
      exact .inr ⟨hr, e, he, rfl⟩

/-- `READ` is an error without a seed, or answers the accumulator (R78). -/
theorem execRead_next {s t : State} (h : execRead s = .next t) :
    (s.accv = false ∧ t = raise .noSeed s) ∨
      (∃ a, s.accv = true ∧ s.acc = some a ∧ t = respond .ok a s) := by
  obtain noSeed | ⟨a, hv, ha, hn⟩ := withAcc_next h
  · exact .inl noSeed
  · cases hn
    exact .inr ⟨a, hv, ha, rfl⟩

/-- `TREAD` holds, or answers the entry it reads (R62). -/
theorem execTread_next {index : U8} {s t : State} (h : execTread index s = .next t) :
    (s.ready = false ∧ t = s) ∨
      (s.ready = true ∧ ∃ v, s.entry (directIndex index) = some v ∧ t = respond .ok v s) := by
  obtain held | ⟨hr, hk⟩ := whenReady_next h
  · exact .inl held
  · obtain ⟨v, hv, hn⟩ := withEntry_next hk
    cases hn
    exact .inr ⟨hr, v, hv, rfl⟩

/-- The effects a word can have on the state: a hold, one error, or one OK answer, which may change
`ACC` and `ACCV` only (R90). -/
inductive CommandEffect (s : State) : State → Prop where
  | held (notReady : s.ready = false) : CommandEffect s s
  | raised (e : PortError) (unseeded : e = .noSeed → s.accv = false) : CommandEffect s (raise e s)
  | answered (res : U16) (acc : Option U16) (accv : Bool) :
      CommandEffect s (respond .ok res { s with acc := acc, accv := accv })

/-- Each command that answers a next state has one of the three effects. -/
theorem exec_effect {i : Instr} {s t : State} (h : exec i s = .next t) : CommandEffect s t := by
  cases i with
  | update acc byte =>
    obtain ⟨hr, rfl⟩ | ⟨-, e, -, rfl⟩ := execUpdate_next h
    · exact .held hr
    · exact .answered (combine acc e) s.acc s.accv
  | seed a =>
    cases h
    exact .answered a (some a) true
  | feed byte =>
    obtain ⟨hv, rfl⟩ | ⟨a, -, -, ⟨hr, rfl⟩ | ⟨-, e, -, rfl⟩⟩ := execFeed_next h
    · exact .raised .noSeed fun _ => hv
    · exact .held hr
    · exact .answered (combine a e) (some (combine a e)) s.accv
  | read =>
    obtain ⟨hv, rfl⟩ | ⟨a, -, -, rfl⟩ := execRead_next h
    · exact .raised .noSeed fun _ => hv
    · exact .answered a s.acc s.accv
  | tread index =>
    obtain ⟨hr, rfl⟩ | ⟨-, v, -, rfl⟩ := execTread_next h
    · exact .held hr
    · exact .answered v s.acc s.accv
  | stat =>
    cases h
    exact .answered s.status s.acc s.accv

/-- Each word that answers a next state, legal or not, has one of the three effects. -/
theorem executeWord_effect {w : U32} {s t : State} (h : executeWord w s = .next t) :
    CommandEffect s t := by
  obtain ⟨-, hw⟩ | ⟨i, -, hw⟩ := executeWord_cases w s
  · rw [hw] at h
    cases h
    exact .raised .illegal nofun
  · exact exec_effect (hw ▸ h)

end Sys2Proof.Machine
end

section
/-! SUPPORT. One command, one legal response (spec/00_scope.md R9, spec/30_encoding.md R48, R49). -/

namespace Sys2Proof.Machine

/-- An OK response may carry any result. -/
theorem legalResponse_ok (res : U16) : LegalResponse (rspWord .ok res) :=
  ⟨topField_rspWord .ok res, .inl (stField_rspWord .ok res)⟩

/-- An error answers with its own status and `RES = 0`. -/
theorem legalResponse_error (e : PortError) : LegalResponse (rspWord (errorStatus e) 0#16) := by
  refine ⟨topField_rspWord _ _, .inr ⟨?_, resField_rspWord _ _⟩⟩
  cases e with
  | illegal => exact .inl (stField_rspWord .illegal 0#16)
  | noSeed => exact .inr (stField_rspWord .noSeed 0#16)

/-- Settles O37: of the three effects a word can have, the hold changes nothing, and the other two end
the command with one legal response. -/
theorem oneResponsePerCommand : Obligations.OneResponsePerCommand := by
  intro w s t h
  cases executeWord_effect h with
  | held hr => exact .inl ⟨rfl, hr⟩
  | raised e _ => exact .inr ⟨raise_cmdq e s, _, legalResponse_error e, raise_rspq e s⟩
  | answered res acc accv =>
    exact .inr ⟨respond_cmdq .ok res _, _, legalResponse_ok res, respond_rspq .ok res _⟩

end Sys2Proof.Machine
end

section
/-! SUPPORT. Where each command holds, answers or stops, as equations and equivalences on the shared
operations (spec/60_exceptions.md R90, spec/10_state.md R18; log 5). -/

namespace Sys2Proof.Machine

/-! ## Where a command holds or answers -/

/-- The common form of `UPDATE` and `TREAD` (R62, R75): hold while `READY == 0`, then read entry `i` and
answer `g` of it. -/
def answerEntry (i : U8) (g : U16 → U16) (s : State) : Answer :=
  whenReady s (withEntry s i fun v => .next (respond .ok (g v) s))

theorem exec_update (acc : U16) (byte : U8) (s : State) :
    exec (.update acc byte) s = answerEntry (engineIndex acc byte) (combine acc) s := rfl

theorem exec_tread (index : U8) (s : State) :
    exec (.tread index) s = answerEntry index id s := rfl

theorem answerEntry_of_not_ready {s : State} (h : s.ready = false) (i : U8) (g : U16 → U16) :
    answerEntry i g s = .next s :=
  whenReady_of_not_ready h _

theorem answerEntry_of_value {s : State} {i : U8} {v : U16} (h : s.ready = true)
    (hv : s.entry i = some v) (g : U16 → U16) :
    answerEntry i g s = .next (respond .ok (g v) s) := by
  rw [answerEntry, whenReady_of_ready h, withEntry_of_value hv]

theorem execFeed_of_not_ready {s : State} {a : U16} (h : s.ready = false) (hv : s.accv = true)
    (ha : s.acc = some a) (byte : U8) : execFeed byte s = .next s := by
  rw [execFeed, withAcc_of_value hv ha, whenReady_of_not_ready h]

/-! ## Where a command stops -/

/-- The hold never stops; past it the continuation may. -/
theorem whenReady_fault_iff {s : State} {k : Answer} {f : Fault} :
    whenReady s k = .fault f ↔ s.ready = true ∧ k = .fault f := by
  cases h : s.ready with
  | true => simp [whenReady_of_ready h]
  | false => simp [whenReady_of_not_ready h]

theorem withAcc_fault_iff {s : State} {k : U16 → Answer} {f : Fault} :
    withAcc s k = .fault f ↔
      s.accv = true ∧ ((f = .accHoldsNoValue ∧ s.acc = none) ∨
        ∃ a, s.acc = some a ∧ k a = .fault f) := by
  cases hv : s.accv with
  | false => simp [withAcc_of_no_seed hv]
  | true =>
    cases ha : s.acc with
    | none => simp [withAcc, hv, ha, eq_comm]
    | some a => simp [withAcc_of_value hv ha]

theorem withEntry_fault_iff {s : State} {i : U8} {k : U16 → Answer} {f : Fault} :
    withEntry s i k = .fault f ↔
      (f = .entryHoldsNoValue ∧ s.entry i = none) ∨ ∃ v, s.entry i = some v ∧ k v = .fault f := by
  cases hv : s.entry i with
  | none => simp [withEntry, hv, eq_comm]
  | some v => simp [withEntry_of_value hv]

/-- A table read that is then answered stops exactly where the entry holds no value. -/
theorem withEntry_answered_fault_iff {s : State} {i : U8} {g : U16 → State} {f : Fault} :
    withEntry s i (fun v => .next (g v)) = .fault f ↔
      f = .entryHoldsNoValue ∧ s.entry i = none := by
  simp [withEntry_fault_iff]

theorem execRead_fault_iff {s : State} {f : Fault} :
    execRead s = .fault f ↔ f = .accHoldsNoValue ∧ s.accv = true ∧ s.acc = none := by
  simp [execRead, withAcc_fault_iff, and_left_comm]

theorem answerEntry_fault_iff {i : U8} {g : U16 → U16} {s : State} {f : Fault} :
    answerEntry i g s = .fault f ↔
      f = .entryHoldsNoValue ∧ s.ready = true ∧ s.entry i = none := by
  rw [answerEntry, whenReady_fault_iff, withEntry_answered_fault_iff, and_left_comm]

/-- `FEED` reads two places, `ACC` and then one entry, and stops at the first that holds no value. -/
theorem execFeed_fault_iff {byte : U8} {s : State} {f : Fault} :
    execFeed byte s = .fault f ↔
      (f = .accHoldsNoValue ∧ s.accv = true ∧ s.acc = none) ∨
      (f = .entryHoldsNoValue ∧ s.accv = true ∧ s.ready = true ∧
        ∃ a, s.acc = some a ∧ s.entry (engineIndex a byte) = none) := by
  have engine (a : U16) :
      (whenReady s (withUpd s a byte fun v => .next (respond .ok v { s with acc := some v })) =
        .fault f) ↔
      s.ready = true ∧ f = .entryHoldsNoValue ∧ s.entry (engineIndex a byte) = none := by
    rw [whenReady_fault_iff, withUpd, withEntry_answered_fault_iff]
  simp only [execFeed, withAcc_fault_iff, engine]
  constructor
  · rintro ⟨hv, ⟨hf, ha⟩ | ⟨a, ha, hr, hf, he⟩⟩
    · exact .inl ⟨hf, hv, ha⟩
    · exact .inr ⟨hf, hv, hr, a, ha, he⟩
  · rintro (⟨hf, hv, ha⟩ | ⟨hf, hv, hr, a, ha, he⟩)
    · exact ⟨hv, .inl ⟨hf, ha⟩⟩
    · exact ⟨hv, .inr ⟨a, ha, hr, hf, he⟩⟩

/-! ## No refusal -/

theorem whenReady_ne_refused {s : State} {k : Answer} {r : Refusal} (hk : k ≠ .refused r) :
    whenReady s k ≠ .refused r := by
  cases h : s.ready with
  | true => rwa [whenReady_of_ready h]
  | false => rw [whenReady_of_not_ready h]; nofun

theorem withAcc_ne_refused {s : State} {k : U16 → Answer} {r : Refusal}
    (hk : ∀ a, k a ≠ .refused r) : withAcc s k ≠ .refused r := by
  cases hv : s.accv with
  | false => rw [withAcc_of_no_seed hv]; nofun
  | true =>
    cases ha : s.acc with
    | none => simp [withAcc, hv, ha]
    | some a => rw [withAcc_of_value hv ha]; exact hk a

theorem withEntry_ne_refused {s : State} {i : U8} {k : U16 → Answer} {r : Refusal}
    (hk : ∀ v, k v ≠ .refused r) : withEntry s i k ≠ .refused r := by
  cases hv : s.entry i with
  | none => simp [withEntry, hv]
  | some v => rw [withEntry_of_value hv]; exact hk v

/-- Every command has a meaning. -/
theorem exec_ne_refused (i : Instr) (s : State) (r : Refusal) : exec i s ≠ .refused r := by
  cases i with
  | update acc byte => exact whenReady_ne_refused (withEntry_ne_refused fun _ => nofun)
  | seed a => nofun
  | feed byte =>
    exact withAcc_ne_refused fun _ => whenReady_ne_refused (withEntry_ne_refused fun _ => nofun)
  | read => exact withAcc_ne_refused fun _ => nofun
  | tread index => exact whenReady_ne_refused (withEntry_ne_refused fun _ => nofun)
  | stat => nofun

end Sys2Proof.Machine
end

section
/-! SUPPORT. Holds, stops, and what the table commands do not depend on (spec/10_state.md R13, R18;
log 5). -/

namespace Sys2Proof.Machine

/-- Settles O41: each command's stops are those of the places it reads. -/
theorem stopsExactlyWhere : Obligations.StopsExactlyWhere := by
  refine fun s => ⟨fun f => execRead_fault_iff, fun b f => execFeed_fault_iff, fun a b f => ?_,
    fun i f => ?_, fun a f => nofun, fun f => nofun, fun i r => exec_ne_refused i s r⟩
  · rw [exec_update, answerEntry_fault_iff]
  · rw [exec_tread, answerEntry_fault_iff]

/-- Settles O34: each of the three commands tests `READY` before it reads the table. -/
theorem tableCommandsHold : Obligations.TableCommandsHold := by
  refine fun s h => ⟨fun a b => ?_, fun i => ?_, fun b a hv ha => execFeed_of_not_ready h hv ha b⟩
  · rw [exec_update, answerEntry_of_not_ready h]
  · rw [exec_tread, answerEntry_of_not_ready h]

/-- `READY` and one entry are all that is read, and the queues all that is written: other values in
`ACC`, `ACCV` and `ERR` pass through. -/
theorem answerEntry_with_flags {i : U8} {g : U16 → U16} {s t : State}
    (h : answerEntry i g s = .next t) (x : Option U16) (v e : Bool) :
    answerEntry i g { s with acc := x, accv := v, err := e } =
      .next { t with acc := x, accv := v, err := e } := by
  obtain ⟨hr, rfl⟩ | ⟨hr, hk⟩ := whenReady_next h
  · exact answerEntry_of_not_ready (by exact hr) i g
  · obtain ⟨y, hy, hn⟩ := withEntry_next hk
    cases hn
    exact answerEntry_of_value (by exact hr) (by exact hy) g

/-- Settles O40: `UPDATE` and `TREAD` answer one entry, and `STATUS` is no function of `ACC`. -/
theorem updateIgnoresAcc : Obligations.UpdateIgnoresAcc := by
  refine fun s t x v e => ⟨?_, fun h => ?_⟩
  · rintro _ (⟨a, b, rfl⟩ | ⟨j, rfl⟩) h
    · rw [exec_update] at h ⊢
      exact answerEntry_with_flags h x v e
    · rw [exec_tread] at h ⊢
      exact answerEntry_with_flags h x v e
  · cases h
    rfl

end Sys2Proof.Machine
end

section
/-! SUPPORT. EXEC's step runs the word at the head of `CMDQ`, a placed command among them
(spec/10_state.md R22; log 13). -/

namespace Sys2Proof.Machine

/-- Decoding inverts encoding (R46). -/
@[simp] theorem decode_encode (i : Instr) : decode (encode i) = .ok i := by
  cases i <;> simp [encode, decode, decodeOp, ifZero]

/-- EXEC's step executes the head of `CMDQ`, with the turn used up. -/
theorem step_of_exec_turn {s : State} {w : U32} {ws : List U32} (hr : s.rst = false)
    (ht : s.turn Config.turn = .exec) (hq : s.cmdq = w :: ws) :
    step s = executeWord w s.turnTaken := by
  rw [step_eq, ht, takeTurn_exec (by exact hr), execTurn_cons (by exact hq)]

/-- Settles O42: the step executes the head of `CMDQ`, which is judged by its decoding. -/
theorem stepRunsHeadCommand : Obligations.StepRunsHeadCommand := by
  intro s w ws hr ht hq
  rw [step_of_exec_turn hr ht hq]
  exact ⟨fun i h => executeWord_ok h _, fun e h => executeWord_error h _⟩

/-- Fetching a whole 32-bit word places just that word. -/
theorem withFetchWord_toNat (s : State) (w : U32) :
    s.withFetchWord 32 w.toNat = placeCommand w s := by
  rw [State.withFetchWord, Nat.mod_eq_of_lt w.isLt, BitVec.ofNat_toNat, BitVec.setWidth_eq]

/-- Settles O43: a placed word is the head of `CMDQ` in EXEC's turn, and it decodes to its command. -/
theorem stepRunsPlacedCommand : Obligations.StepRunsPlacedCommand := by
  intro s i
  calc step (s.withFetchWord 32 (encode i).toNat)
      = step (placeCommand (encode i) s) := by rw [withFetchWord_toNat]
    _ = executeWord (encode i) (placeCommand (encode i) s).turnTaken :=
        step_of_exec_turn (placeCommand_rst _ s) (turn_cons (placeCommand_plan _ s))
          (placeCommand_cmdq _ s)
    _ = exec i { s with cmdq := encode i :: s.cmdq, rst := false, tick := s.tick + 1 } :=
        executeWord_ok (decode_encode i) _

end Sys2Proof.Machine
end

section
/-! SUPPORT. The reset state: what its table reads, `STATUS` bit by bit, and the invariant
(spec/10_state.md R12, R20, R24). -/

namespace Sys2Proof.Machine

/-- The bits of `STATUS` (R20). -/
theorem getLsbD_status (s : State) (i : Nat) :
    s.status.getLsbD i =
      if i = 0 then s.ready else if i = 1 then s.accv else if i = 2 then s.err else false := by
  simp only [State.status, BitVec.getLsbD_append, BitVec.getLsbD_ofBool]
  match i with
  | 0 | 1 | 2 => simp
  | n + 3 => simp

/-- Settles O33: the three flags by `getLsbD_status`, the two reset values by evaluation. -/
theorem statusBits : Obligations.StatusBits := by
  refine ⟨fun s => ⟨getLsbD_status s 0, getLsbD_status s 1, getLsbD_status s 2, fun i hi => ?_⟩,
    by decide, by decide⟩
  rw [getLsbD_status, if_neg (by omega), if_neg (by omega), if_neg (by omega)]

/-- A numbered list, read as a table, reads each word at its number. -/
theorem Table.read_numbered (k j : Nat) (ws : List U16) :
    Table.read (numbered k ws) (k + j) = ws[j]? := by
  induction ws generalizing k j with
  | nil => rfl
  | cons w ws ih =>
    cases j with
    | zero => simp [numbered, Table.read]
    | succ j =>
      have h : k ≠ k + (j + 1) := by omega
      rw [numbered, Table.read, if_neg h, List.getElem?_cons_succ, ← ih (k + 1) j]
      congr 1
      omega

/-- The 256 constants of R56 are `gen` of their indexes. -/
theorem romWords_eq_gen : romWords = (List.range 256).map fun i => gen (BitVec.ofNat 8 i) := by
  decide +kernel

/-- Every entry of the ROM holds `gen` of its index (R55, R60). -/
theorem Table.read_romTable (i : U8) : Table.read romTable i.toNat = some (gen i) := by
  have h := Table.read_numbered 0 i.toNat romWords
  rw [Nat.zero_add] at h
  rw [romTable, h, romWords_eq_gen]
  simp [i.isLt]

@[simp] theorem resetIn_generated_entry (i : U8) : (resetIn .generated).entry i = none := rfl

@[simp] theorem resetIn_literal_entry (i : U8) : (resetIn .literal).entry i = some (gen i) :=
  Table.read_romTable i

/-- After reset the entries below `GIDX` are none of the 256, or all (R12). -/
theorem resetIn_tableFilled (mode : TableInit) : TableFilled (resetIn mode) := by
  intro i
  cases mode with
  | generated => exact resetIn_generated_entry i
  | literal => rw [resetIn_literal_entry, if_pos (by exact i.isLt)]

theorem resetIn_blockInv (mode : TableInit) : BlockInv (resetIn mode) where
  tableWf := resetIn_table_wf mode
  tableFilled := resetIn_tableFilled mode
  gidxLe := by cases mode <;> decide
  accvIff := by rw [resetIn_accv, resetIn_acc]; rfl

/-- Settles O45: the invariant holds for each `TABLE_INIT`, so for the machine's. -/
theorem blockInvHoldsAfterReset : Obligations.BlockInvHoldsAfterReset :=
  ⟨resetIn_blockInv, resetIn_blockInv Config.tableInit⟩

/-- Settles O20: the entries by the reads of the reset table, the other values by evaluation. -/
theorem resetValues : Obligations.ResetValues :=
  ⟨fun i => ⟨resetIn_generated_entry i, resetIn_literal_entry i⟩, rfl, rfl, by decide, by decide,
    by decide, by decide, fun mode => ⟨resetIn_acc mode, resetIn_accv mode, resetIn_err mode,
      resetIn_cmdq mode, resetIn_rspq mode⟩⟩

end Sys2Proof.Machine
end

section
/-! SUPPORT. The forms of a table index, and what leaves the table alone: the commands, and every agent
once the table is complete (spec/20_memory.md R31, R33, R34, R35). -/

namespace Sys2Proof.Machine

/-- The engine's index bit by bit: the high byte of the accumulator against the data byte (R33). -/
theorem getLsbD_engineIndex (a : U16) (b : U8) (i : Nat) :
    (engineIndex a b).getLsbD i = ((decide (i < 8) && a.getLsbD (8 + i)) ^^ b.getLsbD i) := by
  simp [engineIndex, highByte]

/-- A generator index below 256 addresses its own entry (R31). -/
theorem genIndex_toNat {g : BitVec 9} (h : g.toNat < 256) : (genIndex g).toNat = g.toNat := by
  simp [genIndex, Nat.mod_eq_of_lt h]

/-- Settles O19: the two forms of the engine's index agree bit by bit, and the index is a function of
the high byte. -/
theorem tableIndexForms : Obligations.TableIndexForms := by
  refine ⟨fun a b => BitVec.eq_of_getLsbD_eq fun i hi => ?_, fun a c b h => ?_,
    fun g => genIndex_toNat⟩
  · have hi16 : i < 16 := by omega
    rw [getLsbD_engineIndex]
    simp [hi, hi16]
  · rw [engineIndex, engineIndex, h]

/-- Settles O39: a hold keeps the state, and an error or an answer writes the accumulator, the flags and
the queues only. -/
theorem noCommandWritesTable : Obligations.NoCommandWritesTable := by
  intro w s t h
  cases executeWord_effect h with
  | held _ => exact ⟨rfl, rfl, rfl, rfl, rfl⟩
  | raised e _ =>
    exact ⟨raise_table e s, raise_gidx e s, raise_rst e s, raise_plan e s, raise_tick e s⟩
  | answered res acc accv =>
    exact ⟨respond_table _ _ _, respond_gidx _ _ _, respond_rst _ _ _, respond_plan _ _ _,
      respond_tick _ _ _⟩

/-- EXEC's turn, with or without a command, writes neither the table nor its index. -/
theorem execTurn_table_gidx {s t : State} (h : execTurn s = .next t) :
    t.table = s.table ∧ t.gidx = s.gidx := by
  cases hq : s.cmdq with
  | nil =>
    rw [execTurn_empty hq] at h
    cases h
    exact ⟨rfl, rfl⟩
  | cons w ws =>
    rw [execTurn_cons hq] at h
    obtain ⟨htable, hgidx, -⟩ := noCommandWritesTable w s t h
    exact ⟨htable, hgidx⟩

/-- HOST has no access to the table (R101). -/
theorem hostTurn_table_gidx (a : HostAction) (s : State) :
    (hostTurn a s).table = s.table ∧ (hostTurn a s).gidx = s.gidx := by
  cases a <;> exact ⟨rfl, rfl⟩

/-- With a complete table GEN has no step (R59). -/
theorem genStep_of_ready {s : State} (h : s.ready = true) : genStep s = s := by
  refine genStep_of_not_lt ?_
  rw [ready_iff.1 h]
  decide

/-- A turn other than the release keeps a complete table and its index. -/
theorem takeTurn_table_gidx_of_ready {mode : TableInit} {u : Turn} {s t : State}
    (hr : s.ready = true) (hu : s.rst = true → u ≠ .host .releaseRst)
    (h : takeTurn mode u s = .next t) : t.table = s.table ∧ t.gidx = s.gidx := by
  obtain ⟨hrst, rfl, -⟩ | ⟨-, -, hturn⟩ | ⟨-, -, hturn⟩ | ⟨-, -, hturn⟩ | ⟨a, -, -, hturn⟩ :=
    takeTurn_cases mode u s
  · exact absurd rfl (hu hrst)
  · cases hturn.symm.trans h
    exact ⟨rfl, rfl⟩
  · cases hturn.symm.trans h
    rw [genStep_of_ready hr]
    exact ⟨rfl, rfl⟩
  · exact execTurn_table_gidx (hturn.symm.trans h)
  · cases hturn.symm.trans h
    exact hostTurn_table_gidx a s

/-- Settles O49: each turn but the release keeps the table and `GIDX`, of which `READY` is a function. -/
theorem readyTableIsConstant : Obligations.ReadyTableIsConstant := by
  intro mode pick s t hr h hrel
  rw [stepIn_eq] at h
  obtain ⟨htable, hgidx⟩ := takeTurn_table_gidx_of_ready (by exact hr) (by exact hrel) h
  exact ⟨htable, ready_iff.2 (hgidx.trans (ready_iff.1 hr))⟩

end Sys2Proof.Machine
end

section
/-! SUPPORT. GEN's step and EXEC's commute: GEN writes the table and `GIDX` only, and of those a command
that does not read the table sees at most `READY` (spec/20_memory.md R36). -/

namespace Sys2Proof.Machine

/-! ## What GEN's step leaves unchanged, and what leaves it unchanged -/

@[simp] theorem genStep_acc (s : State) : (genStep s).acc = s.acc := by
  unfold genStep; split <;> rfl

@[simp] theorem genStep_accv (s : State) : (genStep s).accv = s.accv := by
  unfold genStep; split <;> rfl

@[simp] theorem genStep_err (s : State) : (genStep s).err = s.err := by
  unfold genStep; split <;> rfl

@[simp] theorem genStep_cmdq (s : State) : (genStep s).cmdq = s.cmdq := by
  unfold genStep; split <;> rfl

/-- The state with another table and another `GIDX`. -/
def State.withTable (s : State) (table : Table) (gidx : BitVec 9) : State :=
  { s with table := table, gidx := gidx }

/-- GEN's step replaces the table and `GIDX` only (R58). -/
theorem genStep_eq_withTable {s : State} (h : s.gidx.toNat < 256) :
    genStep s = s.withTable
      (Table.write s.table (genIndex s.gidx).toNat (gen (genIndex s.gidx))) (s.gidx + 1#9) :=
  genStep_of_lt h

/-- The function neither reads nor writes the table and `GIDX`: other values there pass through. -/
def IgnoresTable (f : State → State) : Prop :=
  ∀ (s : State) (table : Table) (gidx : BitVec 9), f (s.withTable table gidx) = (f s).withTable table gidx

theorem IgnoresTable.genStep {f : State → State} (hf : IgnoresTable f) (s : State) :
    genStep (f s) = f (genStep s) := by
  have htable : (f s).table = s.table := (congrArg State.table (hf s s.table s.gidx) :)
  have hgidx : (f s).gidx = s.gidx := (congrArg State.gidx (hf s s.table s.gidx) :)
  by_cases h : s.gidx.toNat < 256
  · rw [genStep_eq_withTable h, hf, genStep_eq_withTable (by rwa [hgidx]), htable, hgidx]
  · rw [genStep_of_not_lt h, genStep_of_not_lt (by rwa [hgidx])]

theorem respond_ignoresTable (st : Status) (res : U16) : IgnoresTable (respond st res) :=
  fun _ _ _ => rfl

theorem raise_ignoresTable (e : PortError) : IgnoresTable (raise e) :=
  fun _ _ _ => rfl

/-- With `GIDX < 256` the table is not complete (R17). -/
theorem not_ready_of_gidx_lt {s : State} (h : s.gidx.toNat < 256) : s.ready = false := by
  refine Bool.eq_false_iff.2 fun hr => ?_
  rw [ready_iff.1 hr] at h
  exact absurd h (by decide)

/-- Below `GIDX == 255` GEN's step does not complete the table. -/
theorem genStep_not_ready {s : State} (h : s.gidx.toNat < 255) : (genStep s).ready = false := by
  refine not_ready_of_gidx_lt ?_
  rw [genStep_gidx_toNat (by omega)]
  omega

/-! ## Commuting with GEN's step -/

/-- Where `f` answers a next state at `s`, GEN's step may come before or after it (R36). -/
def CommutesWithGen (f : State → Answer) (s : State) : Prop :=
  ∀ t, f s = .next t → f (genStep s) = .next (genStep t)

namespace CommutesWithGen

variable {s : State}

theorem next {f : State → State} (hf : IgnoresTable f) :
    CommutesWithGen (fun s => .next (f s)) s := by
  intro t h
  cases h
  rw [hf.genStep]

/-- Where GEN's step does not change `READY`, a table command holds before it and after it. -/
theorem whenReady {k : State → Answer} (hr : s.ready = false) (hg : (genStep s).ready = false) :
    CommutesWithGen (fun s => whenReady s (k s)) s := by
  intro t h
  cases (whenReady_of_not_ready hr _).symm.trans h
  exact whenReady_of_not_ready hg _

/-- GEN's step changes neither NoSeed nor the value of `ACC`. -/
theorem withAcc {k : State → U16 → Answer}
    (hk : ∀ a, s.accv = true → CommutesWithGen (fun s => k s a) s) :
    CommutesWithGen (fun s => withAcc s (k s)) s := by
  intro t h
  obtain ⟨hv, rfl⟩ | ⟨a, hv, ha, hn⟩ := withAcc_next h
  · rw [(raise_ignoresTable .noSeed).genStep]
    exact withAcc_of_no_seed ((genStep_accv s).trans hv) _
  · calc Machine.withAcc (genStep s) (k (genStep s))
        = k (genStep s) a :=
          withAcc_of_value ((genStep_accv s).trans hv) ((genStep_acc s).trans ha) _
      _ = .next (genStep t) := hk a hv t hn

/-! ## The commands -/

theorem execSeed (a : U16) : CommutesWithGen (execSeed a) s :=
  next (f := fun s => respond .ok a { s with acc := some a, accv := true }) fun _ _ _ => rfl

theorem execRead : CommutesWithGen execRead s :=
  withAcc fun a _ => next (respond_ignoresTable .ok a)

theorem execFeed_of_no_seed (byte : U8) (hv : s.accv = false) :
    CommutesWithGen (execFeed byte) s :=
  withAcc fun _ hv' => absurd (hv.symm.trans hv') Bool.false_ne_true

/-- `STAT` sees of the table only `READY`. -/
theorem execStat (h : (genStep s).ready = s.ready) : CommutesWithGen execStat s := by
  have hstatus : (genStep s).status = s.status := by
    simp only [State.status, genStep_err, genStep_accv, h]
  intro t ht
  cases ht
  rw [(respond_ignoresTable .ok s.status).genStep, Machine.execStat, hstatus]

/-- While `READY` stays 0 a table command holds, and no other command sees the table. -/
theorem exec_of_not_ready (i : Instr) (hr : s.ready = false) (hg : (genStep s).ready = false) :
    CommutesWithGen (exec i) s := by
  cases i with
  | update acc byte => exact whenReady hr hg
  | seed a => exact execSeed a
  | feed byte => exact withAcc fun _ _ => whenReady hr hg
  | read => exact execRead
  | tread index => exact whenReady hr hg
  | stat => exact execStat (hg.trans hr.symm)

theorem executeWord_ok {w : U32} {i : Instr} (hw : decode w = .ok i)
    (h : CommutesWithGen (exec i) s) : CommutesWithGen (executeWord w) s := by
  intro t ht
  rw [Machine.executeWord_ok hw] at ht ⊢
  exact h t ht

theorem executeWord_error {w : U32} {e : DecodeError} (hw : decode w = .error e) :
    CommutesWithGen (executeWord w) s := by
  intro t ht
  rw [Machine.executeWord_error hw] at ht ⊢
  exact next (raise_ignoresTable .illegal) t ht

theorem executeWord_of_not_ready (w : U32) (hr : s.ready = false) (hg : (genStep s).ready = false) :
    CommutesWithGen (executeWord w) s := by
  cases hw : decode w with
  | error e => exact executeWord_error hw
  | ok i => exact executeWord_ok hw (exec_of_not_ready i hr hg)

theorem execTurn_empty (hq : s.cmdq = []) : CommutesWithGen execTurn s := by
  intro t h
  rw [Machine.execTurn_empty hq] at h
  cases h
  exact Machine.execTurn_empty ((genStep_cmdq s).trans hq)

theorem execTurn_cons {w : U32} {ws : List U32} (hq : s.cmdq = w :: ws)
    (h : CommutesWithGen (executeWord w) s) : CommutesWithGen execTurn s := by
  intro t ht
  rw [Machine.execTurn_cons hq] at ht
  rw [Machine.execTurn_cons ((genStep_cmdq s).trans hq)]
  exact h t ht

theorem execTurn_of_not_ready (hr : s.ready = false) (hg : (genStep s).ready = false) :
    CommutesWithGen execTurn s := by
  cases hq : s.cmdq with
  | nil => exact execTurn_empty hq
  | cons w ws => exact execTurn_cons hq (executeWord_of_not_ready w hr hg)

end CommutesWithGen

/-- Settles O50: below `GIDX == 255` the table commands hold in both orders; at 255 the words named never
look at `READY` or the table. -/
theorem genAndExecCommute : Obligations.GenAndExecCommute := by
  intro s t h hcase
  suffices CommutesWithGen execTurn s from this t h
  obtain hlt | hq | ⟨w, ws, hq, hw⟩ := hcase
  · exact .execTurn_of_not_ready (not_ready_of_gidx_lt (by omega)) (genStep_not_ready hlt)
  · exact .execTurn_empty hq
  · refine .execTurn_cons hq ?_
    obtain ⟨e, he⟩ | ⟨a, ha⟩ | hread | ⟨⟨b, hb⟩, hv⟩ := hw
    · exact .executeWord_error he
    · exact .executeWord_ok ha (.execSeed a)
    · exact .executeWord_ok hread .execRead
    · exact .executeWord_ok hb (.execFeed_of_no_seed b hv)

end Sys2Proof.Machine
end

section
/-! SUPPORT. The words of the commands: a word decodes to a command exactly when it is that command's
word (spec/30_encoding.md R43, R46). -/

namespace Sys2Proof.Machine

/-- Settles O1: each word read back field by field. -/
theorem decodeOfEncode : Obligations.DecodeOfEncode :=
  fun i _ => decode_encode i

/-- A word is made of its four fields (R42). -/
theorem fields_append (w : U32) : opField w ++ rsvField w ++ aField w ++ bField w = w := by
  rw [opField, rsvField, aField, bField,
    BitVec.extractLsb'_append_extractLsb'_eq_extractLsb' (by rfl),
    BitVec.extractLsb'_append_extractLsb'_eq_extractLsb' (by rfl),
    BitVec.extractLsb'_append_extractLsb'_eq_extractLsb' (by rfl), BitVec.extractLsb'_eq_self]

theorem cmdWord_fields {w : U32} (h : rsvField w = 0#4) :
    cmdWord (opField w) (aField w) (bField w) = w := by
  rw [cmdWord, ← h, fields_append]

/-- Both operand fields are unused when the 24 bits are zero. -/
theorem operands_eq_zero_iff {a : U16} {b : U8} : a ++ b = 0#24 ↔ a = 0#16 ∧ b = 0#8 := by
  constructor
  · intro h
    have ha := congrArg (BitVec.extractLsb' 8 16) h
    have hb := congrArg (BitVec.extractLsb' 0 8) h
    rw [BitVec.extractLsb'_append_eq_left] at ha
    rw [BitVec.extractLsb'_append_eq_right] at hb
    exact ⟨ha, hb⟩
  · rintro ⟨rfl, rfl⟩
    rfl

theorem ifZero_ok_iff {n : Nat} {unused : BitVec n} {c i : Instr} :
    ifZero unused c = .ok i ↔ unused = 0#n ∧ c = i := by
  by_cases h : unused = 0#n <;> simp [ifZero, h]

theorem ifZero_error_iff {n : Nat} {unused : BitVec n} {c : Instr} :
    (∃ e, ifZero unused c = .error e) ↔ unused ≠ 0#n := by
  by_cases h : unused = 0#n <;> simp [ifZero, h]

/-- Where the operation field names a command and the unused fields are zero, the three fields spell
that command's word. -/
theorem cmdWord_of_decodeOp {w : U32} {i : Instr} (h : decodeOp w = .ok i) :
    cmdWord (opField w) (aField w) (bField w) = encode i := by
  unfold decodeOp at h
  split_ifs at h with hop hop hop hop hop hop
  · cases h
    rw [hop, encode]
  · obtain ⟨hb, rfl⟩ := ifZero_ok_iff.1 h
    rw [hop, encode, hb]
  · obtain ⟨ha, rfl⟩ := ifZero_ok_iff.1 h
    rw [hop, encode, ha]
  · obtain ⟨hz, rfl⟩ := ifZero_ok_iff.1 h
    obtain ⟨ha, hb⟩ := operands_eq_zero_iff.1 hz
    rw [hop, encode, ha, hb]
  · obtain ⟨ha, rfl⟩ := ifZero_ok_iff.1 h
    rw [hop, encode, ha]
  · obtain ⟨hz, rfl⟩ := ifZero_ok_iff.1 h
    obtain ⟨ha, hb⟩ := operands_eq_zero_iff.1 hz
    rw [hop, encode, ha, hb]

/-- Settles O2: a legal word has `RSV = 0`, and is its command's word field by field. -/
theorem encodeOfDecode : Obligations.EncodeOfDecode := by
  intro w i h
  unfold decode at h
  split_ifs at h with hr
  rw [← cmdWord_of_decodeOp h, cmdWord_fields hr]

/-- A word decodes to a command exactly when it is that command's word (R46). -/
theorem decode_eq_ok_iff {w : U32} {i : Instr} : decode w = .ok i ↔ encode i = w := by
  constructor
  · exact encodeOfDecode w i
  · rintro rfl
    exact decode_encode i

end Sys2Proof.Machine
end

section
/-! SUPPORT. The counts of the legal words (spec/30_encoding.md R46): each command has one word. -/

namespace Sys2Proof.Machine

theorem encode_injective : Function.Injective encode := fun i j h =>
  Except.ok.inj (((decode_encode i).symm.trans (congrArg decode h)).trans (decode_encode j))

/-- A family of different commands is spelled by as many words as it has members. -/
theorem card_words {α : Type} {c : α → Instr} (hc : Function.Injective c) :
    Nat.card (Subtype fun w : U32 => ∃ x, decode w = .ok (c x)) = Nat.card α := by
  simp only [decode_eq_ok_iff]
  exact Nat.card_range_of_injective (encode_injective.comp hc)

theorem card_bitVec (n : Nat) : Nat.card (BitVec n) = 2 ^ n :=
  (Nat.card_congr BitVec.equivFin.toEquiv).trans (Nat.card_fin _)

/-- The six kinds of command with their operands (R46). -/
def instrEquiv : Instr ≃ (U16 × U8) ⊕ U16 ⊕ U8 ⊕ Unit ⊕ U8 ⊕ Unit where
  toFun
    | .update acc byte => .inl (acc, byte)
    | .seed a => .inr (.inl a)
    | .feed byte => .inr (.inr (.inl byte))
    | .read => .inr (.inr (.inr (.inl ())))
    | .tread index => .inr (.inr (.inr (.inr (.inl index))))
    | .stat => .inr (.inr (.inr (.inr (.inr ()))))
  invFun
    | .inl (acc, byte) => .update acc byte
    | .inr (.inl a) => .seed a
    | .inr (.inr (.inl byte)) => .feed byte
    | .inr (.inr (.inr (.inl ()))) => .read
    | .inr (.inr (.inr (.inr (.inl index)))) => .tread index
    | .inr (.inr (.inr (.inr (.inr ())))) => .stat
  left_inv i := by cases i <;> rfl
  right_inv x := by rcases x with _ | _ | _ | _ | _ | _ <;> rfl

theorem card_instr : Nat.card Instr = 2 ^ 24 + (2 ^ 16 + (2 ^ 8 + (1 + (2 ^ 8 + 1)))) := by
  simp only [Nat.card_congr instrEquiv, Nat.card_sum, Nat.card_prod, card_bitVec, Nat.card_unique]
  rfl

/-- Settles O3: the words of a command are counted by its operands, all legal words by the commands. -/
theorem legalWordCounts : Obligations.LegalWordCounts := by
  have one (i : Instr) : Nat.card (Subtype fun w : U32 => decode w = .ok i) = 1 := by
    simp [decode_eq_ok_iff]
  refine ⟨?_, ?_, ?_, one .read, ?_, one .stat, ?_⟩
  · have h := card_words (c := fun p : U16 × U8 => .update p.1 p.2)
      fun p q hpq => by simpa [Prod.ext_iff] using hpq
    simp only [Prod.exists, Nat.card_prod, card_bitVec] at h
    exact h
  · rw [card_words fun a a' => Instr.seed.inj, card_bitVec]
  · rw [card_words fun b b' => Instr.feed.inj, card_bitVec]
  · rw [card_words fun b b' => Instr.tread.inj, card_bitVec]
  · exact (card_words Function.injective_id).trans card_instr

end Sys2Proof.Machine
end

section
/-! SUPPORT. The rows of the match and mask table (spec/30_encoding.md R43) and the illegal words (R47),
both read off the four fields of a word. -/

namespace Sys2Proof.Machine

/-- A word is determined by its four fields (R42). -/
theorem word_ext_iff {v w : U32} :
    v = w ↔ opField v = opField w ∧ rsvField v = rsvField w ∧ aField v = aField w ∧
      bField v = bField w := by
  constructor
  · rintro rfl
    exact ⟨rfl, rfl, rfl, rfl⟩
  · rintro ⟨hop, hrsv, ha, hb⟩
    rw [← fields_append v, hop, hrsv, ha, hb, fields_append]

@[simp] theorem opField_and (v w : U32) : opField (v &&& w) = opField v &&& opField w :=
  BitVec.extractLsb'_and

@[simp] theorem rsvField_and (v w : U32) : rsvField (v &&& w) = rsvField v &&& rsvField w :=
  BitVec.extractLsb'_and

@[simp] theorem aField_and (v w : U32) : aField (v &&& w) = aField v &&& aField w :=
  BitVec.extractLsb'_and

@[simp] theorem bField_and (v w : U32) : bField (v &&& w) = bField v &&& bField w :=
  BitVec.extractLsb'_and

/-- Decoding to a command, on the fields. -/
theorem decode_ok_iff_fields {w : U32} {i : Instr} {op : BitVec 4} {a : U16} {b : U8}
    (hi : encode i = cmdWord op a b) :
    decode w = .ok i ↔ opField w = op ∧ rsvField w = 0#4 ∧ aField w = a ∧ bField w = b := by
  rw [decode_eq_ok_iff, hi, eq_comm, word_ext_iff, opField_cmdWord, rsvField_cmdWord,
    aField_cmdWord, bField_cmdWord]

/-- A row of R43 on the fields, where its mask keeps `OP` and `RSV`. -/
theorem and_eq_cmdWord_iff {w mask : U32} {op : BitVec 4} {a : U16} {b : U8}
    (hop : opField mask = BitVec.allOnes 4) (hrsv : rsvField mask = BitVec.allOnes 4) :
    w &&& mask = cmdWord op a b ↔
      opField w = op ∧ rsvField w = 0#4 ∧ aField w &&& aField mask = a ∧
        bField w &&& bField mask = b := by
  rw [word_ext_iff, opField_and, rsvField_and, aField_and, bField_and, hop, hrsv,
    BitVec.and_allOnes, BitVec.and_allOnes, opField_cmdWord, rsvField_cmdWord, aField_cmdWord,
    bField_cmdWord]

/-- A mask that drops a field says nothing of an operand. -/
theorem dropped_iff {n : Nat} (x : BitVec n) : x &&& 0#n = 0#n ↔ x = x := by
  rw [BitVec.and_zero, eq_self, eq_self]

/-- A mask that keeps a field says that an unused one is zero. -/
theorem kept_iff {n : Nat} (x : BitVec n) : x &&& BitVec.allOnes n = 0#n ↔ x = 0#n := by
  rw [BitVec.and_allOnes]

/-- The decoder and a row agree where they ask the same of the fields `A` and `B` (R43). -/
theorem decode_ok_iff_row {w mask : U32} {i : Instr} {op : BitVec 4} {a : U16} {b : U8}
    (hi : encode i = cmdWord op a b) (hop : opField mask = BitVec.allOnes 4)
    (hrsv : rsvField mask = BitVec.allOnes 4) (ha : aField w &&& aField mask = 0#16 ↔ aField w = a)
    (hb : bField w &&& bField mask = 0#8 ↔ bField w = b) :
    decode w = .ok i ↔ w &&& mask = cmdWord op 0#16 0#8 := by
  rw [decode_ok_iff_fields hi, and_eq_cmdWord_iff hop hrsv, ha, hb]

/-- No word matches two rows whose masks keep `OP` and whose matches differ there. -/
theorem rows_disjoint {w mp mq p q : U32} (hp : opField mp = BitVec.allOnes 4)
    (hq : opField mq = BitVec.allOnes 4) (hne : opField p ≠ opField q) :
    ¬(w &&& mp = p ∧ w &&& mq = q) := by
  rintro ⟨rfl, rfl⟩
  exact hne (by rw [opField_and, opField_and, hp, hq])

/-- Settles O4: a row and the decoder ask the same of the fields, and the rows differ in `OP`. -/
theorem matchMaskRows : Obligations.MatchMaskRows := by
  refine ⟨fun w => ⟨?_, ?_, ?_, ?_, ?_, ?_⟩, ?_, by decide, by decide, by decide, by decide,
    by decide, by decide⟩
  · exact decode_ok_iff_row (op := 1#4) rfl rfl rfl (dropped_iff _) (dropped_iff _)
  · exact decode_ok_iff_row (op := 2#4) rfl rfl rfl (dropped_iff _) (kept_iff _)
  · exact decode_ok_iff_row (op := 3#4) rfl rfl rfl (kept_iff _) (dropped_iff _)
  · exact decode_ok_iff_row (op := 4#4) rfl rfl rfl (kept_iff _) (kept_iff _)
  · exact decode_ok_iff_row (op := 5#4) rfl rfl rfl (kept_iff _) (dropped_iff _)
  · exact decode_ok_iff_row (op := 6#4) rfl rfl rfl (kept_iff _) (kept_iff _)
  · have rows : [((0x10000000#32 : U32), (0xFF000000#32 : U32)), (0x20000000#32, 0xFF0000FF#32),
        (0x30000000#32, 0xFFFFFF00#32), (0x40000000#32, 0xFFFFFFFF#32),
        (0x50000000#32, 0xFFFFFF00#32), (0x60000000#32, 0xFFFFFFFF#32)].Pairwise fun p q =>
        opField p.2 = BitVec.allOnes 4 ∧ opField q.2 = BitVec.allOnes 4 ∧
          opField p.1 ≠ opField q.1 := by decide
    exact rows.imp fun ⟨hp, hq, hne⟩ _ => rows_disjoint hp hq hne

/-- The illegal words (R47), by the error each branch of the decoder gives. -/
theorem exists_decode_error_iff (w : U32) : (∃ e, decode w = .error e) ↔
    (rsvField w ≠ 0#4 ∨ opField w = 0#4 ∨ 7 ≤ (opField w).toNat ∨
      (opField w = 2#4 ∧ bField w ≠ 0#8) ∨
      (opField w = 3#4 ∧ aField w ≠ 0#16) ∨
      (opField w = 4#4 ∧ (aField w ≠ 0#16 ∨ bField w ≠ 0#8)) ∨
      (opField w = 5#4 ∧ aField w ≠ 0#16) ∨
      (opField w = 6#4 ∧ (aField w ≠ 0#16 ∨ bField w ≠ 0#8))) := by
  by_cases hr : rsvField w = 0#4
  · unfold decode decodeOp
    rw [if_pos hr]
    split_ifs with hop hop hop hop hop hop
    · simp [hr, hop]
    · simp [hr, hop, ifZero_error_iff]
    · simp [hr, hop, ifZero_error_iff]
    · simp [hr, hop, ifZero_error_iff, operands_eq_zero_iff, imp_iff_not_or]
    · simp [hr, hop, ifZero_error_iff]
    · simp [hr, hop, ifZero_error_iff, operands_eq_zero_iff, imp_iff_not_or]
    · have other : opField w = 0#4 ∨ 7 ≤ (opField w).toNat := by bv_omega
      simp [← or_assoc, other]
  · simp [decode, hr]

/-- Settles O5: the branches of the decoder, and the one error they lead to. -/
theorem illegalWords : Obligations.IllegalWords := by
  refine ⟨exists_decode_error_iff, ⟨.noSuchOpcode, by decide⟩, ⟨.reservedNotZero, by decide⟩, ?_⟩
  rintro w s ⟨e, he⟩
  have word : rspWord (errorStatus .illegal) 0#16 = 0x00010000#32 := by decide
  rw [executeWord_error he, raise_eq, word]

end Sys2Proof.Machine
end

section
/-! SUPPORT. Response words and written operands (spec/30_encoding.md R48, R49, R51). -/

namespace Sys2Proof.Machine

theorem toNat_rspWord_ok (res : U16) : (rspWord .ok res).toNat = res.toNat := by
  rw [rspWord, BitVec.toNat_append]
  simp [Status.code]

/-- An OK response is its result as a number, so exactly the numbers below 2^16 are OK responses. -/
theorem rspWord_ok_resField_iff {r : U32} : rspWord .ok (resField r) = r ↔ r.toNat < 65536 := by
  constructor
  · intro h
    rw [← h, toNat_rspWord_ok]
    exact (resField r).isLt
  · intro h
    refine BitVec.eq_of_toNat_eq ?_
    rw [toNat_rspWord_ok, resField, BitVec.extractLsb'_toNat, Nat.shiftRight_zero, Nat.mod_eq_of_lt h]

/-- Settles O7: the fields by the reads of a composed word, the examples by evaluation. -/
theorem responseWordFields : Obligations.ResponseWordFields := by
  refine ⟨fun st res => ⟨topField_rspWord st res, ?_, resField_rspWord st res⟩,
    fun r => rspWord_ok_resField_iff, by decide, by decide, by decide⟩
  rw [stField_rspWord]
  cases st <;> rfl

theorem toNat_ofNat_of_fitsA {n : Nat} (h : fitsA n = true) : (BitVec.ofNat 16 n).toNat = n :=
  Nat.mod_eq_of_lt (of_decide_eq_true h)

theorem toNat_ofNat_of_fitsB {n : Nat} (h : fitsB n = true) : (BitVec.ofNat 8 n).toNat = n :=
  Nat.mod_eq_of_lt (of_decide_eq_true h)

/-- A written command whose operands fit is the written form of what it is assembled to. -/
theorem assembleSource_source {c : Source} (h : c.wellFormed = true) :
    ∃ i, assembleSource c = some i ∧ i.source = c := by
  refine ⟨_, if_pos h, ?_⟩
  cases c with
  | update a b =>
    obtain ⟨ha, hb⟩ := Bool.and_eq_true_iff.1 h
    simp only [Instr.source, toNat_ofNat_of_fitsA ha, toNat_ofNat_of_fitsB hb]
  | seed a => simp only [Instr.source, toNat_ofNat_of_fitsA h]
  | feed b => simp only [Instr.source, toNat_ofNat_of_fitsB h]
  | read => rfl
  | tread b => simp only [Instr.source, toNat_ofNat_of_fitsB h]
  | stat => rfl

/-- Settles O8: what fits is kept, and what does not fit is refused before any operand is cut. -/
theorem operandsFitOrError : Obligations.OperandsFitOrError :=
  fun _ => ⟨assembleSource_source, fun h => if_neg (Bool.eq_false_iff.1 h)⟩

end Sys2Proof.Machine
end

section
/-! SUPPORT. Every step keeps the responses legal (spec/30_encoding.md R48, R49). -/

namespace Sys2Proof.Machine

@[simp] theorem genStep_rspq (s : State) : (genStep s).rspq = s.rspq := by
  unfold genStep; split <;> rfl

theorem ResponsesLegal.append {s t : State} {r : U32} (h : ResponsesLegal s) (hr : LegalResponse r)
    (ht : t.rspq = s.rspq ++ [r]) : ResponsesLegal t := by
  intro x hx
  rw [ht, List.mem_append, List.mem_singleton] at hx
  obtain hx | rfl := hx
  · exact h x hx
  · exact hr

theorem ResponsesLegal.subset {s t : State} (h : ResponsesLegal s) (ht : t.rspq ⊆ s.rspq) :
    ResponsesLegal t :=
  fun r hr => h r (ht hr)

/-- EXEC adds at most one response, a legal one. -/
theorem ResponsesLegal.execTurn {s t : State} (h : ResponsesLegal s) (ht : execTurn s = .next t) :
    ResponsesLegal t := by
  cases hq : s.cmdq with
  | nil =>
    cases (execTurn_empty hq).symm.trans ht
    exact h
  | cons w ws =>
    obtain ⟨rfl, -⟩ | ⟨-, r, hr, hrspq⟩ :=
      oneResponsePerCommand w s t ((execTurn_cons hq).symm.trans ht)
    · exact h
    · exact h.append hr hrspq

/-- HOST adds no response. -/
theorem ResponsesLegal.hostTurn {s : State} (h : ResponsesLegal s) (a : HostAction) :
    ResponsesLegal (hostTurn a s) := by
  cases a with
  | send w => exact h
  | take => exact h.subset (List.tail_subset s.rspq)
  | assertRst => exact h
  | releaseRst => exact h

/-- Settles O48: the release leaves no response, GEN and HOST add none, EXEC adds a legal one. -/
theorem stepKeepsResponsesLegal : Obligations.StepKeepsResponsesLegal := by
  intro mode pick s t h ht
  rw [stepIn_eq] at ht
  have h : ResponsesLegal s.turnTaken := h
  obtain ⟨-, -, hturn⟩ | ⟨-, -, hturn⟩ | ⟨-, -, hturn⟩ | ⟨-, -, hturn⟩ | ⟨a, -, -, hturn⟩ :=
    takeTurn_cases mode (s.turn pick) s.turnTaken
  · cases hturn.symm.trans ht
    exact h.subset (by simp)
  · cases hturn.symm.trans ht
    exact h
  · cases hturn.symm.trans ht
    exact h.subset (by simp)
  · exact h.execTurn (hturn.symm.trans ht)
  · cases hturn.symm.trans ht
    exact h.hostTurn a

end Sys2Proof.Machine
end

section
/-! SUPPORT. The invariant of the block under GEN's step and under a word, and that no word stops where it
holds (spec/10_state.md R12, R16, R19, spec/60_exceptions.md R84). -/

namespace Sys2Proof.Machine

/-! ## What the invariant says of a state -/

namespace BlockInv

variable {s t : State}

/-- No entry holds another value than `gen` of its index (R55). -/
theorem eq_gen_of_entry (h : BlockInv s) {i : U8} {v : U16} (hv : s.entry i = some v) : v = gen i := by
  rw [h.tableFilled i] at hv
  split_ifs at hv
  exact (Option.some.inj hv).symm

theorem entry_of_ready (h : BlockInv s) (hr : s.ready = true) (i : U8) : s.entry i = some (gen i) := by
  rw [h.tableFilled i, ready_iff.1 hr, if_pos (by exact i.isLt)]

theorem gidx_lt_of_not_ready (h : BlockInv s) (hr : s.ready = false) : s.gidx.toNat < 256 := by
  refine lt_of_le_of_ne h.gidxLe fun heq => ?_
  have hready : s.ready = true := ready_iff.2 (BitVec.eq_of_toNat_eq heq)
  exact Bool.false_ne_true (hr.symm.trans hready)

theorem accv_of_acc (h : BlockInv s) {a : U16} (ha : s.acc = some a) : s.accv = true := by
  rw [h.accvIff, ha, Option.isSome_some]

theorem acc_ne_none_of_accv (h : BlockInv s) (hv : s.accv = true) : s.acc ≠ none := by
  intro ha
  simp [h.accvIff, ha] at hv

/-! ## What keeps it -/

/-- The invariant looks at the table, `GIDX`, `ACC` and `ACCV` only. -/
theorem of_same_table (h : BlockInv s) (htable : t.table = s.table) (hgidx : t.gidx = s.gidx)
    (haccv : t.accv = t.acc.isSome) : BlockInv t where
  tableWf := htable ▸ h.tableWf
  tableFilled i := by
    rw [State.entry, htable, hgidx]
    exact h.tableFilled i
  gidxLe := hgidx ▸ h.gidxLe
  accvIff := haccv

end BlockInv

/-- GEN's step fills the entry at `GIDX` (R58). -/
theorem genStep_entry {s : State} (h : s.gidx.toNat < 256) (i : U8) :
    (genStep s).entry i = if i = genIndex s.gidx then some (gen i) else s.entry i := by
  rw [genStep_of_lt h]
  by_cases hi : i = genIndex s.gidx
  · rw [if_pos hi, hi]
    exact Table.read_write_same ..
  · rw [if_neg hi]
    exact Table.read_write_other _ (fun heq => hi (BitVec.eq_of_toNat_eq heq)) _

theorem genStep_tableFilled {s : State} (h : TableFilled s) (hlt : s.gidx.toNat < 256) :
    TableFilled (genStep s) := by
  intro i
  rw [genStep_entry hlt, genStep_gidx_toNat hlt, h i]
  by_cases hi : i = genIndex s.gidx
  · rw [if_pos hi, if_pos (by rw [hi, genIndex_toNat hlt]; omega)]
  · have hne : i.toNat ≠ s.gidx.toNat := fun heq =>
      hi (BitVec.eq_of_toNat_eq (heq.trans (genIndex_toNat hlt).symm))
    have hiff : i.toNat < s.gidx.toNat + 1 ↔ i.toNat < s.gidx.toNat := by omega
    simp only [if_neg hi, hiff]

theorem BlockInv.genStep {s : State} (h : BlockInv s) : BlockInv (genStep s) := by
  by_cases hlt : s.gidx.toNat < 256
  · exact
      { tableWf := genStep_table_wf h.tableWf
        tableFilled := genStep_tableFilled h.tableFilled hlt
        gidxLe := by rw [genStep_gidx_toNat hlt]; omega
        accvIff := by rw [genStep_accv, genStep_acc, h.accvIff] }
  · rwa [genStep_of_not_lt hlt]

/-- A command that loads `ACC` does so with `ACCV` set. -/
theorem exec_accv {i : Instr} {s t : State} (h : s.accv = s.acc.isSome) (ht : exec i s = .next t) :
    t.accv = t.acc.isSome := by
  cases i with
  | update acc byte => obtain ⟨-, rfl⟩ | ⟨-, e, -, rfl⟩ := execUpdate_next ht <;> exact h
  | seed a =>
    cases ht
    rfl
  | feed byte =>
    obtain ⟨-, rfl⟩ | ⟨a, hv, -, ⟨-, rfl⟩ | ⟨-, e, -, rfl⟩⟩ := execFeed_next ht
    · exact h
    · exact h
    · exact hv
  | read => obtain ⟨-, rfl⟩ | ⟨a, -, -, rfl⟩ := execRead_next ht <;> exact h
  | tread index => obtain ⟨-, rfl⟩ | ⟨-, v, -, rfl⟩ := execTread_next ht <;> exact h
  | stat =>
    cases ht
    exact h

theorem BlockInv.executeWord {s t : State} {w : U32} (h : BlockInv s)
    (ht : executeWord w s = .next t) : BlockInv t := by
  obtain ⟨htable, hgidx, -⟩ := noCommandWritesTable w s t ht
  refine h.of_same_table htable hgidx ?_
  obtain ⟨-, hw⟩ | ⟨i, -, hw⟩ := executeWord_cases w s
  · cases hw.symm.trans ht
    exact h.accvIff
  · exact exec_accv h.accvIff (hw.symm.trans ht)

/-! ## No word stops -/

/-- The places without a value where a command would stop are never read (R12, R19). -/
theorem BlockInv.exec_ne_fault {s : State} (h : BlockInv s) (i : Instr) (f : Fault) :
    exec i s ≠ .fault f := by
  have noEntry (j : U8) (hr : s.ready = true) : s.entry j ≠ none := by
    rw [h.entry_of_ready hr]
    nofun
  obtain ⟨hread, hfeed, hupdate, htread, hseed, hstat, -⟩ := stopsExactlyWhere s
  cases i with
  | update acc byte =>
    intro hf
    obtain ⟨-, hr, he⟩ := (hupdate acc byte f).1 hf
    exact noEntry _ hr he
  | seed a => exact hseed a f
  | feed byte =>
    intro hf
    obtain ⟨-, hv, ha⟩ | ⟨-, -, hr, a, -, he⟩ := (hfeed byte f).1 hf
    · exact h.acc_ne_none_of_accv hv ha
    · exact noEntry _ hr he
  | read =>
    intro hf
    obtain ⟨-, hv, ha⟩ := (hread f).1 hf
    exact h.acc_ne_none_of_accv hv ha
  | tread index =>
    intro hf
    obtain ⟨-, hr, he⟩ := (htread index f).1 hf
    exact noEntry _ hr he
  | stat => exact hstat f

/-- Where the invariant holds every word has a next state. -/
theorem BlockInv.exists_executeWord_next {s : State} (h : BlockInv s) (w : U32) :
    ∃ t, Machine.executeWord w s = .next t := by
  obtain ⟨-, hw⟩ | ⟨i, -, hw⟩ := executeWord_cases w s
  · exact ⟨_, hw⟩
  · rw [hw]
    cases hi : exec i s with
    | next t => exact ⟨t, rfl⟩
    | fault f => exact absurd hi (h.exec_ne_fault i f)
    | refused r => exact absurd hi (exec_ne_refused i s r)

end Sys2Proof.Machine
end

section
/-! SUPPORT. HOST's waiting: it goes on, word after word, until every pending word is answered
(spec/30_encoding.md R52, spec/10_state.md R18, R22; log 18). -/

namespace Sys2Proof.Machine

/-! ## Waiting from one state until another -/

/-- EXEC's turns that waiting may still take: one for each pending word, and one hold for each entry of
the table that GEN has yet to write. -/
def turnsLeft (s : State) : Nat := s.cmdq.length + (256 - s.gidx.toNat)

/-- With turns enough, waiting at `s` comes to `t` with turns enough. -/
def WaitsUntil (mode : TableInit) (s t : State) : Prop :=
  ∀ n, turnsLeft s < n → ∃ m, turnsLeft t < m ∧ awaitAnswers mode n s = awaitAnswers mode m t

namespace WaitsUntil

variable {mode : TableInit} {s t u : State}

theorem refl (mode : TableInit) (s : State) : WaitsUntil mode s s :=
  fun n hn => ⟨n, hn, rfl⟩

theorem trans (hst : WaitsUntil mode s t) (htu : WaitsUntil mode t u) : WaitsUntil mode s u := by
  intro n hn
  obtain ⟨m, hm, hnm⟩ := hst n hn
  obtain ⟨k, hk, hmk⟩ := htu m hm
  exact ⟨k, hk, hnm.trans hmk⟩

/-- One turn of EXEC, where it takes a turn off those left. -/
theorem of_turn (hlt : turnsLeft t < turnsLeft s)
    (h : ∀ n, awaitAnswers mode (n + 1) s = awaitAnswers mode n t) : WaitsUntil mode s t := by
  intro n hn
  obtain ⟨n, rfl⟩ := Nat.exists_eq_add_one_of_ne_zero (Nat.ne_zero_of_lt hn)
  exact ⟨n, by omega, h n⟩

/-- Waiting ends where every word is answered. -/
theorem awaitAnswers_eq (h : WaitsUntil mode s t) (ht : t.cmdq = []) {n : Nat}
    (hn : turnsLeft s < n) : awaitAnswers mode n s = some t := by
  obtain ⟨m, hm, heq⟩ := h n hn
  obtain ⟨m, rfl⟩ := Nat.exists_eq_add_one_of_ne_zero (Nat.ne_zero_of_lt hm)
  rw [heq, awaitAnswers_empty mode m ht]

end WaitsUntil

/-! ## One word -/

/-- A block that keeps its invariant, not in reset, with the words `ws` still to be answered. -/
structure Pending (s : State) (ws : List U32) : Prop where
  inv : BlockInv s
  rst : s.rst = false
  cmdq : s.cmdq = ws

@[simp] theorem genStep_rst (s : State) : (genStep s).rst = s.rst := by
  unfold genStep; split <;> rfl

namespace Pending

variable {mode : TableInit} {s t : State} {w : U32} {ws : List U32}

theorem genStep (h : Pending s ws) : Pending (genStep s) ws :=
  ⟨h.inv.genStep, (genStep_rst s).trans h.rst, (genStep_cmdq s).trans h.cmdq⟩

theorem executed (h : Pending s (w :: ws)) (ht : executeWord w s = .next t)
    (hq : t.cmdq = s.cmdq.tail) : Pending t ws := by
  obtain ⟨-, -, hrst, -⟩ := noCommandWritesTable w s t ht
  exact ⟨h.inv.executeWord ht, hrst.trans h.rst, by rw [hq, h.cmdq, List.tail_cons]⟩

/-- Of two states only the one before the answer has the word pending. -/
theorem ne_of_executed (hs : Pending s (w :: ws)) (ht : Pending t ws) : t ≠ s := by
  rintro rfl
  exact List.cons_ne_self w ws (hs.cmdq.symm.trans ht.cmdq)

theorem waitsUntil_of_executed (hs : Pending s (w :: ws)) (ht : Pending t ws)
    (he : executeWord w s = .next t) : WaitsUntil mode s t := by
  obtain ⟨-, hgidx, -⟩ := noCommandWritesTable w s t he
  refine .of_turn ?_ fun n => awaitAnswers_executed mode n hs.rst hs.cmdq he ht.cmdq
  rw [turnsLeft, turnsLeft, hs.cmdq, ht.cmdq, hgidx, List.length_cons]
  omega

theorem waitsUntil_of_held (hs : Pending s (w :: ws)) (hlt : s.gidx.toNat < 256)
    (he : executeWord w s = .next s) : WaitsUntil mode s (Machine.genStep s) := by
  refine .of_turn ?_ fun n => awaitAnswers_held mode n hs.rst hs.cmdq he
  rw [turnsLeft, turnsLeft, genStep_cmdq, genStep_gidx_toNat hlt]
  omega

/-- The word at the head is answered, in a state `u` that differs from `s` by GEN's steps only: every
hold is followed by one of them, and with a complete table no word holds. -/
theorem exists_executed (mode : TableInit) {s : State} (hs : Pending s (w :: ws)) :
    ∃ u t, (∃ table gidx, u = s.withTable table gidx) ∧ Pending u (w :: ws) ∧ Pending t ws ∧
      executeWord w u = .next t ∧ WaitsUntil mode s t := by
  obtain ⟨t, ht⟩ := hs.inv.exists_executeWord_next w
  obtain ⟨heq, hr⟩ | ⟨hq, -⟩ := oneResponsePerCommand w s t ht
  · rw [heq] at ht
    have hlt := hs.inv.gidx_lt_of_not_ready hr
    obtain ⟨u, t', ⟨table, gidx, hu⟩, hsu, hst, he, hwait⟩ := exists_executed mode hs.genStep
    refine ⟨u, t', ⟨table, gidx, ?_⟩, hsu, hst, he, (hs.waitsUntil_of_held hlt ht).trans hwait⟩
    rw [hu, genStep_eq_withTable hlt]
    rfl
  · have hst := hs.executed ht hq
    exact ⟨s, t, ⟨s.table, s.gidx, rfl⟩, hs, hst, ht, hs.waitsUntil_of_executed hst ht⟩
termination_by 256 - s.gidx.toNat
decreasing_by
  rw [genStep_gidx_toNat hlt]
  omega

/-- Whatever words are pending first are answered first. -/
theorem exists_answered (mode : TableInit) (ws₁ : List U32) {s : State} (hs : Pending s (ws₁ ++ ws)) :
    ∃ t, Pending t ws ∧ WaitsUntil mode s t ∧ (ws₁ = [] → t = s) := by
  induction ws₁ generalizing s with
  | nil => exact ⟨s, hs, .refl mode s, fun _ => rfl⟩
  | cons w ws₁ ih =>
    obtain ⟨-, t, -, -, ht, -, hwait⟩ := exists_executed mode hs
    obtain ⟨u, hu, hwait', -⟩ := ih ht
    exact ⟨u, hu, hwait.trans hwait', nofun⟩

/-! ## The commands of the pseudo-operations -/

/-- `exists_executed` for the word of a command. -/
theorem exists_executed_command (mode : TableInit) {i : Instr} (hs : Pending s (encode i :: ws)) :
    ∃ u t, (∃ table gidx, u = s.withTable table gidx) ∧ Pending u (encode i :: ws) ∧ Pending t ws ∧
      exec i u = .next t ∧ WaitsUntil mode s t := by
  simpa only [executeWord_ok (decode_encode i)] using exists_executed mode hs

theorem exists_update (mode : TableInit) {a : U16} {b : U8}
    (hs : Pending s (encode (.update a b) :: ws)) :
    ∃ t, Pending t ws ∧ WaitsUntil mode s t ∧ t.rspq.getLast? = some (rspWord .ok (upd a b)) ∧
      t.acc = s.acc ∧ t.accv = s.accv ∧ t.err = s.err := by
  obtain ⟨_, t, ⟨table, gidx, rfl⟩, hu, ht, he, hwait⟩ := exists_executed_command mode hs
  obtain ⟨-, held⟩ | ⟨-, e, hentry, rfl⟩ := execUpdate_next he
  · exact absurd held (hu.ne_of_executed ht)
  · obtain rfl := hu.inv.eq_gen_of_entry hentry
    exact ⟨_, ht, hwait, List.getLast?_concat, rfl, rfl, rfl⟩

theorem exists_seed (mode : TableInit) {a : U16} (hs : Pending s (encode (.seed a) :: ws)) :
    ∃ t, Pending t ws ∧ WaitsUntil mode s t ∧ t.acc = some a := by
  obtain ⟨u, t, -, -, ht, he, hwait⟩ := exists_executed_command mode hs
  cases he
  exact ⟨_, ht, hwait, rfl⟩

theorem exists_feed (mode : TableInit) {a : U16} {b : U8} (hs : Pending s (encode (.feed b) :: ws))
    (ha : s.acc = some a) :
    ∃ t, Pending t ws ∧ WaitsUntil mode s t ∧ t.acc = some (upd a b) := by
  obtain ⟨_, t, ⟨table, gidx, rfl⟩, hu, ht, he, hwait⟩ := exists_executed_command mode hs
  have hacc : (s.withTable table gidx).acc = some a := ha
  obtain ⟨hv, -⟩ | ⟨a', -, ha', ⟨-, held⟩ | ⟨-, e, hentry, rfl⟩⟩ := execFeed_next he
  · exact absurd (hv.symm.trans (hu.inv.accv_of_acc hacc)) Bool.false_ne_true
  · exact absurd held (hu.ne_of_executed ht)
  · cases hacc.symm.trans ha'
    obtain rfl := hu.inv.eq_gen_of_entry hentry
    exact ⟨_, ht, hwait, rfl⟩

/-- A row of `FEED`s folds its bytes into `ACC`. -/
theorem exists_feeds (mode : TableInit) (bs : List U8) {s : State} {a : U16}
    (hs : Pending s (bs.map (fun b => encode (.feed b)) ++ ws)) (ha : s.acc = some a) :
    ∃ t, Pending t ws ∧ WaitsUntil mode s t ∧ t.acc = some (compute a bs) := by
  induction bs generalizing s a with
  | nil => exact ⟨s, hs, .refl mode s, ha⟩
  | cons b bs ih =>
    obtain ⟨t, ht, hwait, hacc⟩ := exists_feed mode hs ha
    obtain ⟨u, hu, hwait', hacc'⟩ := ih ht hacc
    exact ⟨u, hu, hwait.trans hwait', hacc'⟩

theorem exists_read (mode : TableInit) {a : U16} (hs : Pending s (encode .read :: ws))
    (ha : s.acc = some a) :
    ∃ t, Pending t ws ∧ WaitsUntil mode s t ∧ t.acc = some a ∧
      t.rspq.getLast? = some (rspWord .ok a) := by
  obtain ⟨_, t, ⟨table, gidx, rfl⟩, hu, ht, he, hwait⟩ := exists_executed_command mode hs
  have hacc : (s.withTable table gidx).acc = some a := ha
  obtain ⟨hv, -⟩ | ⟨a', -, ha', rfl⟩ := execRead_next he
  · exact absurd (hv.symm.trans (hu.inv.accv_of_acc hacc)) Bool.false_ne_true
  · cases hacc.symm.trans ha'
    exact ⟨_, ht, hwait, ha, List.getLast?_concat⟩

end Pending

end Sys2Proof.Machine
end

section
/-! SUPPORT. The values of `crc16_update` and `COMPUTE` (spec/30_encoding.md R52). -/

namespace Sys2Proof.Machine

/-- The words sent are pending after those that were. -/
theorem BlockInv.pending_sent {s : State} (h : BlockInv s) (hr : s.rst = false) (ws : List U32) :
    Pending { s with cmdq := s.cmdq ++ ws } (s.cmdq ++ ws) :=
  ⟨h.of_same_table rfl rfl h.accvIff, hr, rfl⟩

/-- Where waiting after the sending answers every word, the last of them OK, its result is the value. -/
theorem submitForValue_eq {mode : TableInit} {ws : List U32} {s t : State} {v : U16}
    (hr : s.rst = false) (hwait : WaitsUntil mode { s with cmdq := s.cmdq ++ ws } t)
    (ht : t.cmdq = []) (hv : t.rspq.getLast? = some (rspWord .ok v)) :
    submitForValue mode ws s = some (t, v) := by
  have enough : turnsLeft { s with cmdq := s.cmdq ++ ws } < (s.cmdq ++ ws).length + 257 :=
    Nat.add_lt_add_left (Nat.lt_succ_of_le (Nat.sub_le 256 _)) _
  rw [submitForValue, submitAll_eq mode ws hr, hwait.awaitAnswers_eq ht enough]
  simp [hv]

/-- Settles O56: the pending words are answered, then the `UPDATE`, from entries that hold `gen`. -/
theorem crc16UpdateHasValue : Obligations.Crc16UpdateHasValue := by
  intro mode s acc byte h hr
  obtain ⟨t, ht, hwait, hnone⟩ :=
    Pending.exists_answered mode s.cmdq (h.pending_sent hr [encode (crc16Update acc byte)])
  obtain ⟨u, hu, hwait', hlast, hacc, haccv, herr⟩ := Pending.exists_update mode ht
  refine ⟨u, submitForValue_eq hr (hwait.trans hwait') hu.cmdq hlast, hu.cmdq, fun hq => ?_⟩
  cases hnone hq
  exact ⟨hacc, haccv, herr⟩

/-- The words of `COMPUTE`. -/
theorem computeCommands_encode (seed : U16) (bs : List U8) :
    (computeCommands seed bs).map encode =
      encode (.seed seed) :: (bs.map (fun b => encode (.feed b)) ++ [encode .read]) := by
  simp [computeCommands, Function.comp_def]

/-- After the pending words, `SEED` loads `ACC`, the `FEED`s fold the bytes into it and `READ` answers
it. -/
theorem computeValue_eq (mode : TableInit) {s : State} (h : BlockInv s) (hr : s.rst = false)
    (seed : U16) (bs : List U8) :
    ∃ t, computeValue mode seed bs s = some (t, compute seed bs) ∧
      t.cmdq = [] ∧ t.acc = some (compute seed bs) ∧ t.accv = true := by
  have hsent := h.pending_sent hr ((computeCommands seed bs).map encode)
  obtain ⟨s₁, h₁, wait₁, -⟩ := Pending.exists_answered mode s.cmdq hsent
  rw [computeCommands_encode] at h₁
  obtain ⟨s₂, h₂, wait₂, acc₂⟩ := Pending.exists_seed mode h₁
  obtain ⟨s₃, h₃, wait₃, acc₃⟩ := Pending.exists_feeds mode bs h₂ acc₂
  obtain ⟨t, ht, wait₄, hacc, hlast⟩ := Pending.exists_read mode h₃ acc₃
  have hwait := wait₁.trans (wait₂.trans (wait₃.trans wait₄))
  exact ⟨t, submitForValue_eq hr hwait ht.cmdq hlast, ht.cmdq, hacc, ht.inv.accv_of_acc hacc⟩

/-- A text of ASCII characters has their codes (R52). -/
theorem asciiBytes_of_ascii {text : List Char} (h : ∀ c ∈ text, c.toNat < 128) :
    asciiBytes text = some (text.map fun c => BitVec.ofNat 8 c.toNat) := by
  induction text with
  | nil => rfl
  | cons c cs ih =>
    obtain ⟨hc, hcs⟩ := List.forall_mem_cons.1 h
    have ih : cs.mapM asciiByte = _ := ih hcs
    rw [asciiBytes, List.mapM_cons, asciiByte, if_pos hc, ih]
    rfl

/-- A text with a character beyond ASCII has no bytes (R52). -/
theorem asciiBytes_of_not_ascii {text : List Char} (h : ∃ c ∈ text, 128 ≤ c.toNat) :
    asciiBytes text = none := by
  induction text with
  | nil => simp at h
  | cons c cs ih =>
    rw [asciiBytes, List.mapM_cons, asciiByte]
    by_cases hc : c.toNat < 128
    · have hcs : ∃ c ∈ cs, 128 ≤ c.toNat := by simpa [Nat.not_le.2 hc] using h
      have ih : cs.mapM asciiByte = none := ih hcs
      rw [if_pos hc, ih]
      rfl
    · rw [if_neg hc]
      rfl

/-- Settles O57: the value over bytes, and for a text that over its ASCII codes, where it has them. -/
theorem computeHasValue : Obligations.ComputeHasValue := by
  refine fun mode s seed h hr => ⟨computeValue_eq mode h hr seed, fun text htext => ?_,
    fun text htext => ?_⟩
  · obtain ⟨t, ht, -⟩ := computeValue_eq mode h hr seed (text.map fun c => BitVec.ofNat 8 c.toNat)
    exact ⟨t, by rw [computeTextValue, asciiBytes_of_ascii htext, Option.bind_some, ht]⟩
  · rw [computeTextValue, asciiBytes_of_not_ascii htext, Option.bind_none]

end Sys2Proof.Machine
end

section
/-! SUPPORT. The invariant of the block under the turns of EXEC and HOST and the release of `RST`,
and so under every step (spec/10_state.md R12, R16, R19). -/

namespace Sys2Proof.Machine

namespace BlockInv

variable {s t : State}

/-- The order of turns is no part of the block (log 1, 2). -/
theorem turnTaken (h : BlockInv s) : BlockInv s.turnTaken :=
  h.of_same_table rfl rfl h.accvIff

theorem execTurn (h : BlockInv s) (ht : execTurn s = .next t) : BlockInv t := by
  cases hq : s.cmdq with
  | nil =>
    cases (execTurn_empty hq).symm.trans ht
    exact h
  | cons w ws => exact h.executeWord ((execTurn_cons hq).symm.trans ht)

/-- HOST reaches the queues and `RST` only (R101). -/
theorem hostTurn (h : BlockInv s) (a : HostAction) : BlockInv (hostTurn a s) := by
  obtain ⟨htable, hgidx⟩ := hostTurn_table_gidx a s
  refine h.of_same_table htable hgidx ?_
  cases a <;> exact h.accvIff

/-- Every turn keeps the invariant; the release of `RST` sets it up, whatever the state before. -/
theorem takeTurn {mode : TableInit} {u : Turn} (h : BlockInv s) (ht : takeTurn mode u s = .next t) :
    BlockInv t := by
  obtain ⟨-, -, hturn⟩ | ⟨-, -, hturn⟩ | ⟨-, -, hturn⟩ | ⟨-, -, hturn⟩ | ⟨a, -, -, hturn⟩ :=
    takeTurn_cases mode u s
  · cases hturn.symm.trans ht
    exact (resetIn_blockInv mode).of_same_table rfl rfl (resetIn_blockInv mode).accvIff
  · cases hturn.symm.trans ht
    exact h
  · cases hturn.symm.trans ht
    exact h.genStep
  · exact h.execTurn (hturn.symm.trans ht)
  · cases hturn.symm.trans ht
    exact h.hostTurn a

theorem stepIn {mode : TableInit} {pick : Nat → Turn} (h : BlockInv s)
    (ht : stepIn mode pick s = .next t) : BlockInv t :=
  h.turnTaken.takeTurn (stepIn_eq mode pick s ▸ ht)

end BlockInv

/-- Settles O46: a step is a turn, and every turn keeps the invariant. -/
theorem stepKeepsBlockInv : Obligations.StepKeepsBlockInv :=
  ⟨fun _ _ h ht => h.stepIn ht, fun _ _ _ _ h ht => h.stepIn ht⟩

/-- Settles O31: with `READY` the entry read holds `gen` of its index. -/
theorem treadAnswersEntry : Obligations.TreadAnswersEntry := by
  intro i s h hr
  rw [exec_tread, answerEntry_of_value hr (h.entry_of_ready hr i)]
  rfl

end Sys2Proof.Machine
end

section
/-! SUPPORT. The feedback step bit by bit, and the laws of the table values that follow from its
linearity (spec/40_table.md R53, R56, R57). -/

namespace Sys2Proof.Machine

/-- Settles O10: the listed constants are those of the ROM. -/
theorem listedConstantsAreGen : Obligations.ListedConstantsAreGen :=
  romWords_eq_gen

/-! ## The feedback step -/

/-- The bits that the feedback inverts (R53). -/
theorem getLsbD_poly {i : Nat} (hi : i < 16) :
    poly.getLsbD i = decide (i = 0 ∨ i = 5 ∨ i = 12) := by
  decide +revert

/-- The feedback is an exclusive-or in both cases, with `POLY` or with nothing. -/
theorem lfsr1_eq_xor (r : U16) : lfsr1 r = (r <<< 1) ^^^ (if r.msb then poly else 0#16) := by
  cases h : r.msb <;> simp [lfsr1, h]

theorem toNat_lfsr1 (r : U16) : (lfsr1 r).toNat =
    (if r.getLsbD 15 then (r.toNat <<< 1) ^^^ 0x1021 else r.toNat <<< 1) % 65536 := by
  have shifted : (r <<< 1).toNat = (r.toNat <<< 1) % 2 ^ 16 := BitVec.toNat_shiftLeft
  rw [lfsr1, BitVec.msb_eq_getLsbD_last]
  split
  · rw [BitVec.toNat_xor, shifted]
    exact (Nat.xor_mod_two_pow (b := 0x1021)).symm
  · exact shifted

theorem getLsbD_lfsr1 (r : U16) {i : Nat} (hi : i < 16) : (lfsr1 r).getLsbD i =
    ((decide (0 < i) && r.getLsbD (i - 1)) ^^
      (r.getLsbD 15 && decide (i = 0 ∨ i = 5 ∨ i = 12))) := by
  have shifted : (r <<< 1).getLsbD i = (decide (0 < i) && r.getLsbD (i - 1)) := by
    rw [BitVec.getLsbD_shiftLeft]
    simp [hi, Nat.pos_iff_ne_zero]
  have fed : (if r.msb then poly else 0#16).getLsbD i =
      (r.getLsbD 15 && decide (i = 0 ∨ i = 5 ∨ i = 12)) := by
    rw [← getLsbD_poly hi, BitVec.msb_eq_getLsbD_last]
    cases r.getLsbD 15 <;> simp
  rw [lfsr1_eq_xor, BitVec.getLsbD_xor, shifted, fed]

/-- Settles O9: the step on numbers and on bits, the corner cases by evaluation. -/
theorem feedbackStepBits : Obligations.FeedbackStepBits :=
  ⟨toNat_lfsr1, fun r _ hi => getLsbD_lfsr1 r hi, by decide, by decide, by decide, by decide,
    by decide⟩

/-! ## Linearity (R57 (a)) -/

theorem lfsr1_xor (p q : U16) : lfsr1 (p ^^^ q) = lfsr1 p ^^^ lfsr1 q := by
  refine BitVec.eq_of_getLsbD_eq fun i hi => ?_
  simp only [BitVec.getLsbD_xor, getLsbD_lfsr1 _ hi, Bool.and_xor_distrib_left,
    Bool.and_xor_distrib_right, Bool.xor_assoc, Bool.xor_left_comm]

theorem lfsrSteps_xor (n : Nat) (p q : U16) :
    lfsrSteps n (p ^^^ q) = lfsrSteps n p ^^^ lfsrSteps n q := by
  induction n generalizing p q with
  | zero => rfl
  | succ n ih => rw [lfsrSteps, lfsr1_xor, ih, lfsrSteps, lfsrSteps]

theorem inHighByte_xor (x y : U8) : inHighByte (x ^^^ y) = inHighByte x ^^^ inHighByte y := by
  rw [inHighByte, inHighByte, inHighByte, BitVec.xor_append, BitVec.xor_self]

theorem gen_xor (x y : U8) : gen (x ^^^ y) = gen x ^^^ gen y := by
  rw [gen, inHighByte_xor, lfsrSteps_xor, gen, gen]

theorem lowByte_xor (p q : U16) : lowByte (p ^^^ q) = lowByte p ^^^ lowByte q :=
  BitVec.extractLsb'_xor

/-! ## Distinct entries (R57 (b)) -/

/-- Only entry 0 has the low byte 0. -/
theorem eq_zero_of_lowByte_gen {x : U8} (h : lowByte (gen x) = 0#8) : x = 0#8 := by
  decide +kernel +revert

/-- By linearity, entries with one low byte differ by an entry whose low byte is 0. -/
theorem lowByte_gen_injective : Function.Injective fun x => lowByte (gen x) := by
  intro x y (h : lowByte (gen x) = lowByte (gen y))
  have hxor : lowByte (gen (x ^^^ y)) = 0#8 := by rw [gen_xor, lowByte_xor, h, BitVec.xor_self]
  exact BitVec.xor_eq_zero_iff.1 (eq_zero_of_lowByte_gen hxor)

theorem gen_injective : Function.Injective gen :=
  Function.Injective.of_comp lowByte_gen_injective

theorem map_gen_range {α : Type} (f : U16 → α) :
    ((List.range 256).map fun i => f (gen (BitVec.ofNat 8 i))) = romWords.map f := by
  rw [romWords_eq_gen, List.map_map, Function.comp_def]

/-- Settles O11: the laws of all pairs by linearity, those of the whole table on the constants. -/
theorem tableValueLaws : Obligations.TableValueLaws := by
  refine ⟨lfsr1_xor, gen_xor, by decide, by decide, by decide, by decide, by decide, by decide,
    by decide, by decide, by decide, fun x y h => gen_injective h,
    fun x y h => lowByte_gen_injective h, ?_, ?_, ?_⟩
  · rw [map_gen_range highByte]
    decide +kernel
  · rw [← romWords_eq_gen]
    decide +kernel
  · rw [map_gen_range BitVec.toNat]
    decide +kernel

end Sys2Proof.Machine
end

section
/-! SUPPORT. GEN's turns: one entry each, in order, up to the table of the ROM (spec/40_table.md R58
to R60). -/

namespace Sys2Proof.Machine

/-! ## One turn -/

/-- GEN's index is `GIDX` cut to 8 bits (R33). -/
theorem genIndex_eq_ofNat (g : BitVec 9) : genIndex g = BitVec.ofNat 8 g.toNat :=
  BitVec.eq_of_toNat_eq (by simp [genIndex])

/-- Settles O23: the write at `GIDX` is read back there, and nowhere else. -/
theorem genTurnFillsOneEntry : Obligations.GenTurnFillsOneEntry := by
  intro mode s hr hlt
  refine ⟨_, (takeTurn_gen hr mode).trans (congrArg _ (genStep_of_lt hlt)), ?_, fun i hi => ?_⟩
  · rw [genIndex_toNat hlt, Table.read_write_same, genIndex_eq_ofNat]
  · rw [genIndex_toNat hlt, Table.read_write_other _ hi]

/-- With a complete table GEN's turn changes nothing (R59). -/
theorem takeTurn_gen_of_ready {s : State} (hr : s.rst = false) (h : s.ready = true)
    (mode : TableInit) : takeTurn mode .gen s = .next s := by
  rw [takeTurn_gen hr, genStep_of_ready h]

/-! ## Turns in a row -/

/-- `GIDX` has room for every index up to 256 (R16). -/
theorem toNat_ofNat_of_le {k : Nat} (hk : k ≤ 256) : (BitVec.ofNat 9 k).toNat = k :=
  Nat.mod_eq_of_lt (by omega)

/-- The state with another table, `GIDX` and count of turns, and no turn planned. -/
def State.afterGenTurns (s : State) (table : Table) (gidx : BitVec 9) (tick : Nat) : State :=
  { s.withTable table gidx with plan := [], tick := tick }

theorem afterGenTurns_self {s : State} (hp : s.plan = []) :
    s.afterGenTurns s.table s.gidx s.tick = s := by
  cases s
  cases hp
  rfl

theorem stepIn_gen {mode : TableInit} {pick : Nat → Turn} {s : State} {ts : List Turn}
    (hr : s.rst = false) (hp : s.plan = .gen :: ts) :
    stepIn mode pick s = .next (genStep s.turnTaken) := by
  rw [stepIn_eq, turn_cons hp, takeTurn_gen (by exact hr)]

/-- GEN's turns in a row advance `GIDX`, fill the table below it and change nothing else of the
block. -/
theorem exists_runIn_gen_turns (mode : TableInit) (pick : Nat → Turn) {k tick : Nat}
    {gidx : BitVec 9} {s : State} (h : BlockInv s) (hr : s.rst = false)
    (hp : s.plan = List.replicate k .gen)
    (hgidx : gidx.toNat = s.gidx.toNat + k) (htick : tick = s.tick + k) (hle : gidx.toNat ≤ 256) :
    ∃ table, BlockInv (s.withTable table gidx) ∧
      runIn mode pick k s = .next (s.afterGenTurns table gidx tick) := by
  induction k generalizing s with
  | zero =>
    obtain rfl : gidx = s.gidx := BitVec.eq_of_toNat_eq hgidx
    obtain rfl : tick = s.tick := htick
    exact ⟨s.table, h, by rw [runIn_zero, afterGenTurns_self hp]⟩
  | succ k ih =>
    have hlt : s.gidx.toNat < 256 := by omega
    have hstep := genStep_eq_withTable (s := s.turnTaken) hlt
    have hone : (genStep s.turnTaken).gidx.toNat = s.gidx.toNat + 1 := genStep_gidx_toNat hlt
    obtain ⟨table, hinv, hrun⟩ := ih h.turnTaken.genStep ((genStep_rst _).trans hr)
      (by rw [hstep]; exact congrArg List.tail hp) (by omega)
      (by rw [hstep]; exact htick.trans (Nat.succ_add_eq_add_succ s.tick k).symm)
    rw [hstep] at hinv hrun
    refine ⟨table, hinv.of_same_table rfl rfl h.accvIff, ?_⟩
    rw [runIn_succ_of_next k (stepIn_gen hr hp), hstep, hrun]
    rfl

/-- GEN's turns in a row from reset. -/
theorem exists_runIn_gen_turns_reset (mode : TableInit) (pick : Nat → Turn) {k : Nat}
    (hk : k ≤ 256) :
    ∃ table, BlockInv ((resetIn .generated).withTable table (BitVec.ofNat 9 k)) ∧
      runIn mode pick k { resetIn .generated with plan := List.replicate k .gen } =
        .next ((resetIn .generated).afterGenTurns table (BitVec.ofNat 9 k) k) := by
  have hreset := resetIn_blockInv .generated
  have hto := toNat_ofNat_of_le hk
  obtain ⟨table, hinv, hrun⟩ := exists_runIn_gen_turns mode pick
    (s := { resetIn .generated with plan := List.replicate k .gen })
    (hreset.of_same_table rfl rfl hreset.accvIff) rfl rfl
    (hto.trans (Nat.zero_add k).symm) (Nat.zero_add k).symm (hto.trans_le hk)
  exact ⟨table, hinv.of_same_table rfl rfl hreset.accvIff, hrun⟩

/-- Settles O24: the invariant says what the entries below `GIDX = k` hold. -/
theorem genTurnsFillInOrder : Obligations.GenTurnsFillInOrder := by
  refine ⟨fun mode pick k hk => ?_, fun mode s hr hg =>
    takeTurn_gen_of_ready hr (ready_iff.2 hg) mode⟩
  obtain ⟨table, hinv, hrun⟩ := exists_runIn_gen_turns_reset mode pick hk
  refine ⟨table, hrun, hinv.tableWf, fun i => ?_⟩
  rw [← toNat_ofNat_of_le hk]
  exact hinv.tableFilled i

/-! ## The ROM (R60) -/

/-- The complete table is determined by its entries, which are those of the ROM. -/
theorem BlockInv.table_of_ready {s : State} (h : BlockInv s) (hr : s.ready = true) :
    s.table = romTable := by
  have romWf : Table.wf romTable = true := resetIn_table_wf .literal
  refine Table.ext h.tableWf romWf fun i => ?_
  by_cases hi : i < 256
  · have hentry : Table.read s.table (BitVec.ofNat 8 i).toNat = _ := h.entry_of_ready hr _
    rw [← Table.read_romTable, BitVec.toNat_ofNat, Nat.mod_eq_of_lt hi] at hentry
    exact hentry
  · rw [Table.read_outside (Nat.le_of_not_lt hi) h.tableWf,
      Table.read_outside (Nat.le_of_not_lt hi) romWf]

/-- Settles O25: GEN's 256 turns from reset make the block ready. -/
theorem generatedBecomesLiteral : Obligations.GeneratedBecomesLiteral := by
  refine ⟨fun _ h hr => h.table_of_ready hr, fun mode pick => ?_⟩
  obtain ⟨table, hinv, hrun⟩ := exists_runIn_gen_turns_reset mode pick (Nat.le_refl 256)
  obtain rfl : table = romTable := hinv.table_of_ready (ready_iff.2 rfl)
  exact hrun

end Sys2Proof.Machine
end

section
/-! SUPPORT. EXEC's answers depend neither on the waiting responses nor on the order of turns, so ready blocks with equal registers answer alike (spec/40_table.md R60). -/

namespace Sys2Proof.Machine

/-! ## What no command looks at -/

/-- The state with responses already waiting before its own, and with another order of turns. -/
def State.behind (waiting : List U32) (plan : List Turn) (tick : Nat) (s : State) : State :=
  { s with rspq := waiting ++ s.rspq, plan := plan, tick := tick }

/-- The answer with its next state changed by `f`; a stop stays. -/
def mapNext (f : State → State) : Answer → Answer
  | .next s => .next (f s)
  | .fault r => .fault r
  | .refused r => .refused r

/-- The answer does not depend on the waiting responses nor on the order of turns, which pass
through. -/
def IgnoresWaiting (f : State → Answer) : Prop :=
  ∀ (waiting : List U32) (plan : List Turn) (tick : Nat) (s : State),
    f (s.behind waiting plan tick) = mapNext (State.behind waiting plan tick) (f s)

theorem respond_behind (waiting : List U32) (plan : List Turn) (tick : Nat) (s : State)
    (st : Status) (res : U16) :
    respond st res (s.behind waiting plan tick) = (respond st res s).behind waiting plan tick := by
  rw [respond_eq, respond_eq, State.behind, State.behind, ← List.append_assoc]

theorem withEntry_of_none {s : State} {i : U8} (h : s.entry i = none) (k : U16 → Answer) :
    withEntry s i k = .fault .entryHoldsNoValue := by
  rw [withEntry, h]

theorem withAcc_of_none {s : State} (hv : s.accv = true) (ha : s.acc = none) (k : U16 → Answer) :
    withAcc s k = .fault .accHoldsNoValue := by
  rw [withAcc, if_pos hv, ha]

namespace IgnoresWaiting

theorem next_respond (st : Status) (res : U16) :
    IgnoresWaiting fun s => .next (respond st res s) :=
  fun waiting plan tick s => congrArg Host.Outcome.next (respond_behind waiting plan tick s st res)

/-- An error is a response after `ERR` is set. -/
theorem next_raise (e : PortError) : IgnoresWaiting fun s => .next (raise e s) :=
  fun waiting plan tick s =>
    next_respond (errorStatus e) 0#16 waiting plan tick { s with err := true }

theorem whenReady {k : State → Answer} (hk : IgnoresWaiting k) :
    IgnoresWaiting fun s => whenReady s (k s) := by
  intro waiting plan tick s
  beta_reduce
  cases hr : s.ready with
  | true =>
    rw [whenReady_of_ready hr, whenReady_of_ready (by exact hr)]
    exact hk waiting plan tick s
  | false =>
    rw [whenReady_of_not_ready hr, whenReady_of_not_ready (by exact hr)]
    rfl

theorem withEntry {i : U8} {k : State → U16 → Answer} (hk : ∀ v, IgnoresWaiting fun s => k s v) :
    IgnoresWaiting fun s => withEntry s i (k s) := by
  intro waiting plan tick s
  beta_reduce
  cases hv : s.entry i with
  | none =>
    rw [withEntry_of_none hv, withEntry_of_none (by exact hv)]
    rfl
  | some v =>
    rw [withEntry_of_value hv, withEntry_of_value (by exact hv)]
    exact hk v waiting plan tick s

theorem withAcc {k : State → U16 → Answer} (hk : ∀ a, IgnoresWaiting fun s => k s a) :
    IgnoresWaiting fun s => withAcc s (k s) := by
  intro waiting plan tick s
  beta_reduce
  cases hv : s.accv with
  | false =>
    rw [withAcc_of_no_seed hv, withAcc_of_no_seed (by exact hv)]
    exact next_raise .noSeed waiting plan tick s
  | true =>
    cases ha : s.acc with
    | none =>
      rw [withAcc_of_none hv ha, withAcc_of_none (by exact hv) (by exact ha)]
      rfl
    | some a =>
      rw [withAcc_of_value hv ha, withAcc_of_value (by exact hv) (by exact ha)]
      exact hk a waiting plan tick s

theorem answerEntry (i : U8) (g : U16 → U16) : IgnoresWaiting (answerEntry i g) :=
  whenReady (withEntry fun v => next_respond .ok (g v))

/-- Each command is made of the shared operations, none of which looks at the waiting responses. -/
theorem exec (i : Instr) : IgnoresWaiting (exec i) := by
  cases i with
  | update acc byte => exact answerEntry (engineIndex acc byte) (combine acc)
  | seed a =>
    exact fun waiting plan tick s =>
      next_respond .ok a waiting plan tick { s with acc := some a, accv := true }
  | feed byte =>
    exact withAcc fun a => whenReady (withEntry fun e waiting plan tick s =>
      next_respond .ok (combine a e) waiting plan tick { s with acc := some (combine a e) })
  | read => exact withAcc fun a => next_respond .ok a
  | tread index => exact answerEntry index id
  | stat => exact fun waiting plan tick s => next_respond .ok s.status waiting plan tick s

theorem executeWord (w : U32) : IgnoresWaiting (executeWord w) := by
  intro waiting plan tick s
  cases hw : decode w with
  | error e =>
    rw [executeWord_error hw, executeWord_error hw]
    exact next_raise .illegal waiting plan tick s
  | ok i =>
    rw [executeWord_ok hw, executeWord_ok hw]
    exact exec i waiting plan tick s

end IgnoresWaiting

/-! ## A ready block's answers to a list of words -/

theorem stepIn_exec {mode : TableInit} {pick : Nat → Turn} {s : State} {w : U32} {ws : List U32}
    {ts : List Turn} (hr : s.rst = false) (hp : s.plan = .exec :: ts) (hq : s.cmdq = w :: ws) :
    stepIn mode pick s = executeWord w s.turnTaken := by
  rw [stepIn_eq, turn_cons hp, takeTurn_exec (by exact hr), execTurn_cons (by exact hq)]

/-- Where the table is complete every word is answered at once, and the block stays ready. -/
theorem Pending.exists_answered_of_ready {s : State} {w : U32} {ws : List U32}
    (h : Pending s (w :: ws)) (hr : s.ready = true) :
    ∃ t, executeWord w s = .next t ∧ Pending t ws ∧ t.ready = true ∧
      t.rspq.length = s.rspq.length + 1 := by
  obtain ⟨t, ht⟩ := h.inv.exists_executeWord_next w
  obtain ⟨-, hnot⟩ | ⟨hq, r, -, hrspq⟩ := oneResponsePerCommand w s t ht
  · exact absurd (hnot.symm.trans hr) Bool.false_ne_true
  · obtain ⟨-, hgidx, -⟩ := noCommandWritesTable w s t ht
    exact ⟨t, ht, h.executed ht hq, ready_iff.2 (hgidx.trans (ready_iff.1 hr)),
      by rw [hrspq, List.length_append, List.length_singleton]⟩

/-- EXEC's turns in a row answer all of a ready block's words, and come to one state whatever
responses were waiting and whatever `TABLE_INIT` is. -/
theorem exists_runIn_exec_turns (ws : List U32) {s : State} (h : Pending s ws)
    (hr : s.ready = true) :
    ∃ t : State, t.rspq.length = s.rspq.length + ws.length ∧
      ∀ (mode : TableInit) (pick : Nat → Turn) (waiting : List U32) (tick : Nat),
        runIn mode pick ws.length (s.behind waiting (List.replicate ws.length .exec) tick) =
          .next (t.behind waiting [] (tick + ws.length)) := by
  induction ws generalizing s with
  | nil => exact ⟨s, rfl, fun mode pick waiting tick => runIn_zero mode pick _⟩
  | cons w ws ih =>
    obtain ⟨u, hu, hpending, hready, hlength⟩ := h.exists_answered_of_ready hr
    obtain ⟨t, ht, hrun⟩ := ih hpending hready
    refine ⟨t, by rw [ht, hlength, List.length_cons]; omega, fun mode pick waiting tick => ?_⟩
    have hstep :
        stepIn mode pick (s.behind waiting (.exec :: List.replicate ws.length .exec) tick) =
          .next (u.behind waiting (List.replicate ws.length .exec) (tick + 1)) := by
      rw [stepIn_exec (by exact h.rst) rfl (by exact h.cmdq)]
      exact (IgnoresWaiting.executeWord w waiting _ (tick + 1) s).trans (congrArg (mapNext _) hu)
    rw [List.length_cons, List.replicate_succ, runIn_succ_of_next ws.length hstep, hrun]
    congr 2
    omega

/-- Ready blocks that keep the invariant differ in their registers, queues and turns only. -/
theorem eq_behind_of_ready {s₁ s₂ : State} (h₁ : BlockInv s₁) (h₂ : BlockInv s₂)
    (ready₁ : s₁.ready = true) (ready₂ : s₂.ready = true) (hrst : s₂.rst = s₁.rst)
    (hacc : s₂.acc = s₁.acc) (haccv : s₂.accv = s₁.accv) (herr : s₂.err = s₁.err)
    (hcmdq : s₂.cmdq = s₁.cmdq) :
    s₂ = State.behind s₂.rspq s₂.plan s₂.tick { s₁ with rspq := [] } := by
  have htable := (h₂.table_of_ready ready₂).trans (h₁.table_of_ready ready₁).symm
  have hgidx := (ready_iff.1 ready₂).trans (ready_iff.1 ready₁).symm
  simp only [State.behind, List.append_nil, ← htable, ← hgidx, ← hrst, ← hacc, ← haccv,
    ← herr, ← hcmdq]

/-- Settles O26: both blocks run as one block with no response waiting does. -/
theorem readyBlocksAnswerAlike : Obligations.ReadyBlocksAnswerAlike := by
  intro mode₁ mode₂ pick₁ pick₂ s₁ s₂ ws h₁ h₂ ready₁ ready₂ rst₁ rst₂ hacc haccv herr cmdq₁ cmdq₂
    plan₁ plan₂
  have same₁ := eq_behind_of_ready h₁ h₁ ready₁ ready₁ rfl rfl rfl rfl rfl
  have same₂ := eq_behind_of_ready h₁ h₂ ready₁ ready₂ (rst₂.trans rst₁.symm) hacc.symm haccv.symm
    herr.symm (cmdq₂.trans cmdq₁.symm)
  rw [plan₁] at same₁
  rw [plan₂] at same₂
  have pending : Pending { s₁ with rspq := [] } ws :=
    ⟨h₁.of_same_table rfl rfl h₁.accvIff, rst₁, cmdq₁⟩
  obtain ⟨t, hlength, hrun⟩ := exists_runIn_exec_turns ws pending ready₁
  refine ⟨_, _, t.rspq, (congrArg _ same₁).trans (hrun mode₁ pick₁ s₁.rspq s₁.tick),
    (congrArg _ same₂).trans (hrun mode₂ pick₂ s₂.rspq s₂.tick), ?_, rfl, rfl⟩
  rw [hlength]
  exact Nat.zero_add ws.length

end Sys2Proof.Machine
end

section
/-! SUPPORT. The engine as the bit-serial algorithm: a byte in the low half of the register is shifted up
without feedback (spec/41_engine.md R63 to R66). -/

namespace Sys2Proof.Machine

/-! ## The bit-serial algorithm (R65) -/

/-- While no set bit reaches the top, the feedback step is a shift. -/
theorem lfsrSteps_eq_shiftLeft {n : Nat} {r : U16} (h : r.toNat * 2 ^ n < 2 ^ 16) :
    lfsrSteps n r = r <<< n := by
  induction n generalizing r with
  | zero => exact (BitVec.shiftLeft_zero r).symm
  | succ n ih =>
    have hdouble : 2 * r.toNat * 2 ^ n < 2 ^ 16 := by rwa [mul_comm 2, mul_assoc, ← pow_succ']
    have hlt : 2 * r.toNat < 2 ^ 16 :=
      (Nat.le_mul_of_pos_right _ (Nat.two_pow_pos n)).trans_lt hdouble
    have hshift : (r <<< 1).toNat = 2 * r.toNat := by
      rw [BitVec.toNat_shiftLeft, Nat.shiftLeft_eq, pow_one, mul_comm, Nat.mod_eq_of_lt hlt]
    have hmsb : ¬r.msb = true := by rw [BitVec.msb_eq_false_iff_two_mul_lt.2 hlt]; decide
    rw [lfsrSteps, lfsr1, if_neg hmsb, ih (by rwa [hshift]), ← BitVec.shiftLeft_add, Nat.add_comm]

/-- `{a[7:0], 0x00}` (R63). -/
theorem shiftLeft_eight (a : U16) : a <<< 8 = inHighByte (lowByte a) :=
  BitVec.shiftLeft_eq_concat_of_lt (by decide)

/-- A byte in the low half moves up in eight steps, with no feedback. -/
theorem lfsrSteps_low (b : U8) : lfsrSteps 8 (0#8 ++ b) = inHighByte b := by
  have hval : (0#8 ++ b).toNat = b.toNat := by rw [BitVec.toNat_append]; simp
  rw [lfsrSteps_eq_shiftLeft (by rw [hval]; omega), shiftLeft_eight, lowByte,
    BitVec.extractLsb'_append_eq_right]

theorem highByte_append_lowByte (a : U16) : highByte a ++ lowByte a = a := by
  rw [highByte, lowByte, BitVec.extractLsb'_append_extractLsb'_eq_extractLsb' (by rfl),
    BitVec.extractLsb'_eq_self]

/-- The register holds the engine's index in its high byte and the accumulator's low byte. -/
theorem xor_inHighByte (a : U16) (b : U8) :
    a ^^^ inHighByte b = inHighByte (engineIndex a b) ^^^ (0#8 ++ lowByte a) := by
  conv_lhs => rw [← highByte_append_lowByte a]
  rw [inHighByte, inHighByte, BitVec.xor_append, BitVec.xor_append, engineIndex, BitVec.xor_zero,
    BitVec.xor_zero, BitVec.zero_xor]

/-- Settles O12: by linearity, the index in the high byte gives the entry and the low byte moves up. -/
theorem engineIsBitSerial : Obligations.EngineIsBitSerial := by
  intro a b
  rw [xor_inHighByte, lfsrSteps_xor, lfsrSteps_low, ← shiftLeft_eight, upd, combine, gen,
    BitVec.xor_comm]

/-! ## Injectivity (R66) -/

/-- Bit 0 after the step says what bit 15 was, and bit `i + 1` then what bit `i` was. -/
theorem lfsr1_injective : Function.Injective lfsr1 := by
  intro p q h
  have bits {i : Nat} (hi : i < 16) := (getLsbD_lfsr1 p hi).symm.trans (h ▸ getLsbD_lfsr1 q hi)
  have top : p[15] = q[15] := by simpa using bits (i := 0) (by decide)
  refine BitVec.eq_of_getLsbD_eq fun i hi => ?_
  obtain rfl | hlt : i = 15 ∨ i + 1 < 16 := by omega
  · exact top
  · simpa [top] using bits hlt

theorem lfsrSteps_injective (n : Nat) : Function.Injective (lfsrSteps n) := by
  induction n with
  | zero => exact Function.injective_id
  | succ n ih => exact ih.comp lfsr1_injective

theorem upd_injective_acc (b : U8) : Function.Injective fun a => upd a b := by
  intro a a' (h : upd a b = upd a' b)
  rw [engineIsBitSerial, engineIsBitSerial] at h
  exact (BitVec.xor_left_inj _).1 (lfsrSteps_injective 8 h)

theorem upd_injective_byte (a : U16) : Function.Injective (upd a) := by
  intro b b' h
  exact (BitVec.xor_right_inj _).1 (gen_injective ((BitVec.xor_right_inj _).1 h))

end Sys2Proof.Machine
end

section
/-! SUPPORT. `compute` as a fold, and what follows from the engine's injectivity for whole sequences
(spec/41_engine.md R66 to R69, R73, R74). -/

namespace Sys2Proof.Machine

theorem compute_eq_foldl (seed : U16) (bs : List U8) : compute seed bs = bs.foldl upd seed := by
  induction bs generalizing seed with
  | nil => rfl
  | cons b bs ih => exact ih (upd seed b)

/-- Settles O14: the fold by induction on the sequence. -/
theorem computeIsLeftFold : Obligations.ComputeIsLeftFold :=
  ⟨compute_eq_foldl, fun _ => rfl⟩

theorem compute_append (seed : U16) (bs cs : List U8) :
    compute seed (bs ++ cs) = compute (compute seed bs) cs := by
  simp only [compute_eq_foldl, List.foldl_append]

/-- Settles O15: a fold over a concatenation. -/
theorem computeSplits : Obligations.ComputeSplits :=
  compute_append

/-! ## One changed byte or bit -/

theorem compute_injective (bs : List U8) : Function.Injective fun seed => compute seed bs := by
  induction bs with
  | nil => exact Function.injective_id
  | cons b bs ih => exact ih.comp (upd_injective_acc b)

/-- The changed byte gives another accumulator, and the bytes after it keep the two apart. -/
theorem compute_ne_of_byte_ne (seed : U16) (p q : List U8) {x y : U8} (h : x ≠ y) :
    compute seed (p ++ x :: q) ≠ compute seed (p ++ y :: q) := by
  rw [compute_append, compute_append]
  exact (compute_injective q).ne ((upd_injective_byte (compute seed p)).ne h)

/-- Settles O13: an injection of the finite `u16` to itself is a bijection. -/
theorem engineIsBijective : Obligations.EngineIsBijective :=
  ⟨fun b => Finite.injective_iff_bijective.1 (upd_injective_acc b), upd_injective_byte,
    fun seed p q _ _ h => compute_ne_of_byte_ne seed p q h⟩

/-- A flipped bit makes another byte. -/
theorem xor_bit_ne (x : U8) {j : Nat} (hj : j < 8) : x ^^^ (1#8 <<< j) ≠ x := by
  intro h
  have hbit := congrArg (fun v => v.getLsbD j) h
  simp [hj] at hbit

/-- Settles O16: the sequence with the bit flipped differs in the one byte. -/
theorem singleBitFlipChangesResult : Obligations.SingleBitFlipChangesResult := by
  intro seed d k j x hx hj
  obtain ⟨hk, rfl⟩ := List.getElem?_eq_some_iff.1 hx
  have hne := compute_ne_of_byte_ne seed (d.take k) (d.drop (k + 1)) (xor_bit_ne d[k] hj)
  rwa [← List.set_eq_take_cons_drop _ hk, List.getElem_cons_drop, List.take_append_drop] at hne

/-! ## The residue (R74) -/

/-- The byte that equals the accumulator's high byte reads entry 0, which is 0: the accumulator is only
shifted. -/
theorem upd_highByte (a : U16) : upd a (highByte a) = a <<< 8 := by
  have hindex : engineIndex a (highByte a) = 0#8 := BitVec.xor_self
  rw [upd, combine, hindex, show gen 0#8 = 0#16 by decide, BitVec.xor_zero]

theorem highByte_shiftLeft_eight (a : U16) : highByte (a <<< 8) = lowByte a := by
  rw [shiftLeft_eight, highByte, inHighByte, BitVec.extractLsb'_append_eq_left]

/-- Folding the accumulator's own two bytes, high byte first, shifts it out. -/
theorem compute_own_bytes (c : U16) : compute c [highByte c, lowByte c] = 0#16 := by
  have hlow := upd_highByte (c <<< 8)
  rw [highByte_shiftLeft_eight] at hlow
  calc compute c [highByte c, lowByte c] = c <<< 8 <<< 8 := by
        rw [compute, upd_highByte, compute, hlow, compute]
    _ = 0#16 := by rw [← BitVec.shiftLeft_add, BitVec.shiftLeft_eq_zero (by decide)]

/-- Settles O17: the residue by the split of `compute`, the counterexample by evaluation. -/
theorem residueIsZero : Obligations.ResidueIsZero := by
  refine ⟨fun seed d => ?_, by decide⟩
  rw [compute_append, compute_own_bytes]

end Sys2Proof.Machine
end

section
/-! SUPPORT. The engine's four commands where they answer OK (spec/41_engine.md R75 to R78). -/

namespace Sys2Proof.Machine

/-- Settles O27: with `READY` the entry read holds `gen` of the engine's index. -/
theorem updateAnswers : Obligations.UpdateAnswers := by
  intro a b s h hr
  rw [exec_update, answerEntry_of_value hr (h.entry_of_ready hr _)]
  rfl

/-- Settles O28: `SEED` tests nothing, so its meaning is the stated state. -/
theorem seedLoadsAcc : Obligations.SeedLoadsAcc :=
  fun _ _ => rfl

/-- Settles O29: past the tests of `ACCV` and `READY` the entry read holds `gen` of the engine's index. -/
theorem feedFoldsByte : Obligations.FeedFoldsByte := by
  intro b a s h hr hv ha
  rw [exec, execFeed, withAcc_of_value hv ha, whenReady_of_ready hr,
    withUpd_of_gen (h.entry_of_ready hr _)]
  rfl

/-- Settles O30: past the test of `ACCV` the accumulator is the answer. -/
theorem readAnswersAcc : Obligations.ReadAnswersAcc := by
  intro a s hv ha
  rw [exec, execRead, withAcc_of_value hv ha]
  rfl

end Sys2Proof.Machine
end

section
/-! SUPPORT. The chain of `UPDATE`s (spec/41_engine.md R80). -/

namespace Sys2Proof.Machine

/-- HOST's bound on EXEC's turns is never reached. -/
theorem turnsLeft_sent_lt (s : State) (ws : List U32) :
    turnsLeft { s with cmdq := s.cmdq ++ ws } < (s.cmdq ++ ws).length + 257 :=
  Nat.add_lt_add_left (Nat.lt_succ_of_le (Nat.sub_le 256 _)) _

/-- Waiting answers all the pending words. -/
theorem Pending.exists_all_answered (mode : TableInit) {s : State} {ws : List U32}
    (hs : Pending s ws) : ∃ t, Pending t [] ∧ WaitsUntil mode s t ∧ (ws = [] → t = s) :=
  exists_answered mode ws (by rwa [List.append_nil])

/-- Words submitted are all answered; where there are none nothing happens. -/
theorem BlockInv.exists_submitAll {s : State} (h : BlockInv s) (hr : s.rst = false) (mode : TableInit)
    (ws : List U32) :
    ∃ t, submitAll mode ws s = some t ∧ Pending t [] ∧ (s.cmdq = [] → ws = [] → t = s) := by
  obtain ⟨t, ht, hwait, hnone⟩ := (h.pending_sent hr ws).exists_all_answered mode
  refine ⟨t, ?_, ht, ?_⟩
  · rw [submitAll_eq mode ws hr, hwait.awaitAnswers_eq ht.cmdq (turnsLeft_sent_lt s ws)]
  · rintro hq rfl
    rw [List.append_nil] at hnone
    exact hnone hq

/-- With no word pending `crc16_update` is one `UPDATE`. -/
theorem Pending.exists_crc16UpdateValue {s : State} (h : Pending s []) (mode : TableInit) (a : U16)
    (b : U8) :
    ∃ t, crc16UpdateValue mode a b s = some (t, upd a b) ∧ Pending t [] ∧
      t.acc = s.acc ∧ t.accv = s.accv ∧ t.err = s.err := by
  have hsent := h.inv.pending_sent h.rst [encode (crc16Update a b)]
  rw [h.cmdq, List.nil_append] at hsent
  obtain ⟨t, ht, hwait, hlast, hflags⟩ := Pending.exists_update mode hsent
  exact ⟨t, submitForValue_eq h.rst (by rwa [h.cmdq]) ht.cmdq hlast, ht, hflags⟩

/-- Settles O52, by induction on the chain: the words in between are answered first, then the `UPDATE`
folds its byte into the value before it. -/
theorem chainComputes : Obligations.ChainComputes := by
  intro mode s seed items h hr
  induction items generalizing s seed with
  | nil => exact ⟨s, rfl, fun _ _ => ⟨rfl, rfl, rfl⟩⟩
  | cons item items ih =>
    obtain ⟨others, b⟩ := item
    obtain ⟨t, hsubmit, ht, hnone⟩ := h.exists_submitAll hr mode others
    obtain ⟨u, hupdate, hu, hacc, haccv, herr⟩ := ht.exists_crc16UpdateValue mode seed b
    obtain ⟨v, hchain, hquiet⟩ := ih u (upd seed b) hu.inv hu.rst
    refine ⟨v, ?_, fun hq hothers => ?_⟩
    · rw [computeX, hsubmit, Option.bind_some, hupdate]
      exact hchain
    · obtain ⟨hhead, htail⟩ := List.forall_mem_cons.1 hothers
      obtain ⟨hacc', haccv', herr'⟩ := hquiet hu.cmdq htail
      cases hnone hq hhead
      exact ⟨hacc'.trans hacc, haccv'.trans haccv, herr'.trans herr⟩

end Sys2Proof.Machine
end

section
/-! SUPPORT. The stream of `SEED`, `FEED`s and `READ` in any order of GEN and EXEC turns (spec/41_engine.md
R79). -/

namespace Sys2Proof.Machine

/-! ## The plan, `ACC` and the first step of a run -/

@[simp] theorem genStep_plan (s : State) : (genStep s).plan = s.plan := by
  unfold genStep; split <;> rfl

theorem BlockInv.acc_eq_none {s : State} (h : BlockInv s) (hv : s.accv = false) : s.acc = none :=
  Option.not_isSome_iff_eq_none.1 (by rw [← h.accvIff, hv]; decide)

/-- A run that goes on begins with a step that answers a next state. -/
theorem exists_stepIn_of_runIn_succ {mode : TableInit} {pick : Nat → Turn} {n : Nat} {s t : State}
    (h : runIn mode pick (n + 1) s = .next t) :
    ∃ u, stepIn mode pick s = .next u ∧ runIn mode pick n u = .next t := by
  cases hs : stepIn mode pick s with
  | next u => exact ⟨u, rfl, (runIn_succ_of_next n hs).symm.trans h⟩
  | fault f =>
    have hs : (coreIn mode pick).step s = .fault f := hs
    simp [runIn, Host.Core.run, hs] at h
  | refused r =>
    have hs : (coreIn mode pick).step s = .refused r := hs
    simp [runIn, Host.Core.run, hs] at h

/-! ## What a stream does to `ACC` and is answered -/

/-- `ACC` after a command is executed (R76 to R78); without a seed a `FEED` loads nothing (R88). -/
def accAfter (acc : Option U16) : Instr → Option U16
  | .seed a => some a
  | .feed b => acc.map fun a => upd a b
  | _ => acc

/-- A stream command answers `ACC` as it leaves it, or NoSeed (R76 to R78, R88). -/
def accResponse : Option U16 → U32
  | some a => rspWord .ok a
  | none => rspWord .noSeed 0#16

/-- The responses to a list of stream commands. -/
def streamResponses (acc : Option U16) : List Instr → List U32
  | [] => []
  | i :: is => accResponse (accAfter acc i) :: streamResponses (accAfter acc i) is

theorem streamResponses_append (acc : Option U16) (is js : List Instr) :
    streamResponses acc (is ++ js) =
      streamResponses acc is ++ streamResponses (is.foldl accAfter acc) js := by
  induction is generalizing acc with
  | nil => rfl
  | cons i is ih => exact congrArg _ (ih (accAfter acc i))

/-- The `FEED`s of the bytes leave their `compute` in `ACC`. -/
theorem foldl_accAfter_feeds (a : U16) (bs : List U8) :
    (bs.map Instr.feed).foldl accAfter (some a) = some (compute a bs) := by
  induction bs generalizing a with
  | nil => rfl
  | cons b bs ih => exact ih (upd a b)

theorem foldl_accAfter_computeCommands (acc : Option U16) (seed : U16) (bs : List U8) :
    (computeCommands seed bs).foldl accAfter acc = some (compute seed bs) := by
  rw [computeCommands, List.foldl_cons, accAfter, List.foldl_append, foldl_accAfter_feeds]
  rfl

/-- After the seed come the answers to the stream of the rest, seeded with the first `upd`. -/
theorem streamExpected_cons (seed : U16) (b : U8) (bs : List U8) :
    streamExpected seed (b :: bs) = rspWord .ok seed :: streamExpected (upd seed b) bs := by
  rw [streamExpected, List.length_cons, List.range_succ_eq_map, List.map_cons, List.map_map]
  rfl

/-- The `FEED`s and the `READ` answer what is expected after the seed. -/
theorem cons_streamResponses_feeds_read (a : U16) (bs : List U8) :
    rspWord .ok a :: streamResponses (some a) (bs.map Instr.feed ++ [.read]) =
      streamExpected a bs := by
  induction bs generalizing a with
  | nil => rfl
  | cons b bs ih =>
    rw [streamExpected_cons, ← ih (upd a b)]
    rfl

theorem streamResponses_computeCommands (acc : Option U16) (seed : U16) (bs : List U8) :
    streamResponses acc (computeCommands seed bs) = streamExpected seed bs :=
  cons_streamResponses_feeds_read seed bs

/-! ## The responses to stream commands among others -/

theorem streamAnswers_singleton_of_some {w r : U32} {i : Instr} (h : streamCommand w = some i) :
    streamAnswers [w] [r] = [r] := by
  simp [streamAnswers, h]

theorem streamAnswers_singleton_of_none {w r : U32} (h : streamCommand w = none) :
    streamAnswers [w] [r] = [] := by
  simp [streamAnswers, h]

theorem streamAnswers_append {ws rs : List U32} (h : rs.length = ws.length) (ws' rs' : List U32) :
    streamAnswers (ws ++ ws') (rs ++ rs') = streamAnswers ws rs ++ streamAnswers ws' rs' := by
  rw [streamAnswers, List.zip_append h.symm, List.filter_append, List.map_append]
  rfl

/-! ## A part of a run -/

/-- From `s` to `t` the words `ws` of `CMDQ` were executed and gave the responses `rs`, and the stream
commands among them did to `ACC` and were answered what a stream is. -/
structure StreamRun (s t : State) (ws rs : List U32) : Prop where
  cmdq : s.cmdq = ws ++ t.cmdq
  rspq : t.rspq = s.rspq ++ rs
  length : rs.length = ws.length
  answers : streamAnswers ws rs = streamResponses s.acc (ws.filterMap streamCommand)
  acc : t.acc = (ws.filterMap streamCommand).foldl accAfter s.acc

namespace StreamRun

variable {s t u : State} {w : U32} {ws ws' rs rs' : List U32}

theorem of_no_word (hq : t.cmdq = s.cmdq) (hr : t.rspq = s.rspq) (ha : t.acc = s.acc) :
    StreamRun s t [] [] :=
  ⟨hq.symm, by rw [hr, List.append_nil], rfl, rfl, ha⟩

theorem trans (hst : StreamRun s t ws rs) (htu : StreamRun t u ws' rs') :
    StreamRun s u (ws ++ ws') (rs ++ rs') where
  cmdq := by rw [hst.cmdq, htu.cmdq, List.append_assoc]
  rspq := by rw [htu.rspq, hst.rspq, List.append_assoc]
  length := by rw [List.length_append, List.length_append, hst.length, htu.length]
  answers := by
    rw [streamAnswers_append hst.length, List.filterMap_append, streamResponses_append, hst.answers,
      htu.answers, hst.acc]
  acc := by rw [htu.acc, hst.acc, List.filterMap_append, List.foldl_append]

/-- A stream command executed. -/
theorem of_command {i : Instr} {acc : Option U16} (hi : streamCommand w = some i)
    (hq : s.cmdq = w :: ws) (hx : accAfter s.acc i = acc) (hq' : t.cmdq = s.cmdq.tail)
    (ha : t.acc = acc) (hr : t.rspq = s.rspq ++ [accResponse acc]) :
    StreamRun s t [w] [accResponse acc] where
  cmdq := by rw [hq', hq]; rfl
  rspq := hr
  length := rfl
  answers := by rw [streamAnswers_singleton_of_some hi, List.filterMap_cons_some hi, ← hx]; rfl
  acc := by rw [List.filterMap_cons_some hi, ha, ← hx]; rfl

/-- Another word executed. -/
theorem of_other {r : U32} (hi : streamCommand w = none) (hq : s.cmdq = w :: ws)
    (ha : t.acc = s.acc) (hq' : t.cmdq = s.cmdq.tail) (hr : t.rspq = s.rspq ++ [r]) :
    StreamRun s t [w] [r] where
  cmdq := by rw [hq', hq]; rfl
  rspq := hr
  length := rfl
  answers := by rw [streamAnswers_singleton_of_none hi, List.filterMap_cons_none hi]; rfl
  acc := by rw [List.filterMap_cons_none hi]; exact ha

/-- Another word, held or executed, where it keeps `ACC`. -/
theorem exists_of_other (hq : s.cmdq = w :: ws) (ht : executeWord w s = .next t)
    (hi : streamCommand w = none) (ha : t.acc = s.acc) : ∃ ws rs, StreamRun s t ws rs := by
  obtain ⟨rfl, -⟩ | ⟨hq', r, -, hr⟩ := oneResponsePerCommand w s t ht
  · exact ⟨[], [], of_no_word rfl rfl rfl⟩
  · exact ⟨[w], [r], of_other hi hq ha hq' hr⟩

/-- EXEC's turn on the word at the head of `CMDQ`. -/
theorem exists_of_executeWord (h : BlockInv s) (hq : s.cmdq = w :: ws)
    (ht : executeWord w s = .next t) : ∃ ws rs, StreamRun s t ws rs := by
  have other := exists_of_other hq ht
  obtain ⟨⟨e, hw⟩, he⟩ | ⟨i, hw, he⟩ := executeWord_cases w s
  · cases he.symm.trans ht
    exact other (by simp [streamCommand, hw]) rfl
  rw [he] at ht
  cases i with
  | update a b =>
    refine other (by simp [streamCommand, hw]) ?_
    obtain ⟨-, rfl⟩ | ⟨-, e, -, rfl⟩ := execUpdate_next ht <;> rfl
  | seed a =>
    cases ht
    exact ⟨_, _, of_command (i := .seed a) (by simp [streamCommand, hw]) hq rfl rfl rfl rfl⟩
  | feed b =>
    have feeds : streamCommand w = some (.feed b) := by simp [streamCommand, hw]
    obtain ⟨hv, rfl⟩ | ⟨a, -, ha, ⟨-, rfl⟩ | ⟨-, e, hentry, rfl⟩⟩ := execFeed_next ht
    · have hnone := h.acc_eq_none hv
      exact ⟨_, _, of_command feeds hq (congrArg (accAfter · (.feed b)) hnone) rfl hnone rfl⟩
    · exact ⟨[], [], of_no_word rfl rfl rfl⟩
    · obtain rfl := h.eq_gen_of_entry hentry
      exact ⟨_, _, of_command feeds hq (congrArg (accAfter · (.feed b)) ha) rfl rfl rfl⟩
  | read =>
    have reads : streamCommand w = some .read := by simp [streamCommand, hw]
    obtain ⟨hv, rfl⟩ | ⟨a, -, ha, rfl⟩ := execRead_next ht
    · have hnone := h.acc_eq_none hv
      exact ⟨_, _, of_command reads hq hnone rfl hnone rfl⟩
    · exact ⟨_, _, of_command reads hq ha rfl ha rfl⟩
  | tread index =>
    refine other (by simp [streamCommand, hw]) ?_
    obtain ⟨-, rfl⟩ | ⟨-, v, -, rfl⟩ := execTread_next ht <;> rfl
  | stat =>
    cases ht
    exact other (by simp [streamCommand, hw]) rfl

/-! ## GEN's and EXEC's turns -/

variable {mode : TableInit} {pick : Nat → Turn} {turn : Turn} {turns : List Turn}

theorem exists_of_stepIn (h : BlockInv s) (hr : s.rst = false) (hp : s.plan = turn :: turns)
    (hturn : turn = .gen ∨ turn = .exec) (ht : stepIn mode pick s = .next t) :
    t.rst = false ∧ t.plan = turns ∧ ∃ ws rs, StreamRun s t ws rs := by
  have hplan : s.turnTaken.plan = turns := congrArg List.tail hp
  obtain rfl | rfl := hturn
  · cases (stepIn_gen hr hp).symm.trans ht
    exact ⟨(genStep_rst _).trans hr, (genStep_plan _).trans hplan, [], [],
      of_no_word (genStep_cmdq _) (genStep_rspq _) (genStep_acc _)⟩
  · cases hq : s.cmdq with
    | nil =>
      rw [stepIn_eq, turn_cons hp, takeTurn_exec (by exact hr), execTurn_empty (by exact hq)] at ht
      cases ht
      exact ⟨hr, hplan, [], [], of_no_word rfl rfl rfl⟩
    | cons w ws =>
      rw [stepIn_exec hr hp hq] at ht
      obtain ⟨-, -, hrst, hplan', -⟩ := noCommandWritesTable w _ t ht
      obtain ⟨ws, rs, hrun⟩ := exists_of_executeWord h.turnTaken (by exact hq) ht
      have hturn : StreamRun s s.turnTaken [] [] := of_no_word rfl rfl rfl
      exact ⟨hrst.trans hr, hplan'.trans hplan, _, _, hturn.trans hrun⟩

/-- A plan of GEN's and EXEC's turns, in any order. -/
theorem exists_of_runIn (h : BlockInv s) (hr : s.rst = false) (hp : s.plan = turns)
    (hquiet : HostQuiet turns) (ht : runIn mode pick turns.length s = .next t) :
    BlockInv t ∧ ∃ ws rs, StreamRun s t ws rs := by
  induction turns generalizing s with
  | nil =>
    cases ht
    exact ⟨h, [], [], of_no_word rfl rfl rfl⟩
  | cons turn turns ih =>
    obtain ⟨hturn, hturns⟩ := List.forall_mem_cons.1 hquiet
    obtain ⟨u, hu, hrest⟩ := exists_stepIn_of_runIn_succ ht
    obtain ⟨hr', hp', ws, rs, hsu⟩ := exists_of_stepIn h hr hp hturn hu
    obtain ⟨hinv, ws', rs', hut⟩ := ih (h.stepIn hu) hr' hp' hturns hrest
    exact ⟨hinv, _, _, hsu.trans hut⟩

end StreamRun

/-- Settles O51: the run executed all of `CMDQ`, the stream among it. -/
theorem streamComputes : Obligations.StreamComputes := by
  intro mode pick s t seed bs h hr hquiet hstream hrun hend
  obtain ⟨hinv, ws, rs, hcmdq, hrspq, hlength, hanswers, hacc⟩ :=
    StreamRun.exists_of_runIn h hr rfl hquiet hrun
  obtain rfl : s.cmdq = ws := by rw [hcmdq, hend, List.append_nil]
  rw [hstream, streamResponses_computeCommands] at hanswers
  rw [hstream, foldl_accAfter_computeCommands] at hacc
  exact ⟨rs, hrspq, hlength, hanswers, hacc, hinv.accv_of_acc hacc⟩

end Sys2Proof.Machine
end

section
/-! SUPPORT. `STAT` and the number its response holds (spec/42_system.md R81). -/

namespace Sys2Proof.Machine

/-- The three flags are the bits of weight 4, 2 and 1 of `STATUS` (R20). -/
theorem toNat_status (s : State) :
    s.status.toNat =
      (if s.err then 4 else 0) + (if s.accv then 2 else 0) + (if s.ready then 1 else 0) := by
  have flags : ∀ err accv ready : Bool,
      (0#13 ++ BitVec.ofBool err ++ BitVec.ofBool accv ++ BitVec.ofBool ready).toNat =
        (if err then 4 else 0) + (if accv then 2 else 0) + (if ready then 1 else 0) := by
    decide
  exact flags s.err s.accv s.ready

/-- Settles O32: the response is `STATUS`, whose bit 0 is `READY`, the test of `GIDX == 256`. -/
theorem statAnswersFlags : Obligations.StatAnswersFlags := by
  intro s
  have hready : s.ready = true ↔ s.gidx = 256#9 := beq_iff_eq
  refine ⟨s.status, rfl, ?_⟩
  simp only [toNat_status, hready]

end Sys2Proof.Machine
end

section
/-! SUPPORT. The order of judgement (spec/60_exceptions.md R90): the two tests of a legal command, and what
it answers where each of them fires and where neither does. -/

namespace Sys2Proof.Machine

variable {i : Instr} {s t : State}

/-- R90 step 2 fires: the command reads `ACC`, and there is no seed (R88). -/
def NoSeedFires (i : Instr) (s : State) : Prop :=
  ((∃ b, i = .feed b) ∨ i = .read) ∧ s.accv = false

/-- R90 step 3 fires: the command reads the table, and `READY` is 0 (R18). -/
def HoldFires (i : Instr) (s : State) : Prop :=
  ((∃ a b, i = .update a b) ∨ (∃ b, i = .feed b) ∨ (∃ b, i = .tread b)) ∧ s.ready = false

/-- NoSeed comes before the hold: `READY` is not asked. -/
theorem exec_of_noSeedFires (h : NoSeedFires i s) : exec i s = .next (raise .noSeed s) := by
  obtain ⟨⟨b, rfl⟩ | rfl, hv⟩ := h
  · exact withAcc_of_no_seed hv _
  · exact withAcc_of_no_seed hv _

/-- Settles O35: the error NoSeed, whose response word is 0x00020000. -/
theorem unseededIsNoSeed : Obligations.UnseededIsNoSeed :=
  fun _ hv => ⟨fun b => exec_of_noSeedFires ⟨.inl ⟨b, rfl⟩, hv⟩, exec_of_noSeedFires ⟨.inr rfl, hv⟩⟩

/-- A table command past the test for NoSeed holds; a `FEED` there is seeded, so `ACC` holds a value. -/
theorem BlockInv.exec_of_holdFires (h : BlockInv s) (hseed : ¬NoSeedFires i s) (hhold : HoldFires i s) :
    exec i s = .next s := by
  obtain ⟨hi, hr⟩ := hhold
  obtain ⟨hupdate, htread, hfeed⟩ := tableCommandsHold s hr
  obtain ⟨a, b, rfl⟩ | ⟨b, rfl⟩ | ⟨b, rfl⟩ := hi
  · exact hupdate a b
  · have hv : s.accv = true := Bool.of_not_eq_false fun hv => hseed ⟨.inl ⟨b, rfl⟩, hv⟩
    obtain ⟨a, ha⟩ := Option.ne_none_iff_exists'.1 (h.acc_ne_none_of_accv hv)
    exact hfeed b a hv ha
  · exact htread b

/-- Where neither test fires a command that answers a next state answers OK. -/
theorem exec_answered (hseed : ¬NoSeedFires i s) (hhold : ¬HoldFires i s) (ht : exec i s = .next t) :
    ∃ (res : U16) (acc : Option U16) (accv : Bool),
      t = respond .ok res { s with acc := acc, accv := accv } := by
  cases i with
  | update a b =>
    obtain ⟨hr, -⟩ | ⟨-, e, -, rfl⟩ := execUpdate_next ht
    · exact absurd ⟨.inl ⟨a, b, rfl⟩, hr⟩ hhold
    · exact ⟨combine a e, s.acc, s.accv, rfl⟩
  | seed a =>
    cases ht
    exact ⟨a, some a, true, rfl⟩
  | feed b =>
    obtain ⟨hv, -⟩ | ⟨a, -, -, ⟨hr, -⟩ | ⟨-, e, -, rfl⟩⟩ := execFeed_next ht
    · exact absurd ⟨.inl ⟨b, rfl⟩, hv⟩ hseed
    · exact absurd ⟨.inr (.inl ⟨b, rfl⟩), hr⟩ hhold
    · exact ⟨combine a e, some (combine a e), s.accv, rfl⟩
  | read =>
    obtain ⟨hv, -⟩ | ⟨a, -, -, rfl⟩ := execRead_next ht
    · exact absurd ⟨.inr rfl, hv⟩ hseed
    · exact ⟨a, s.acc, s.accv, rfl⟩
  | tread j =>
    obtain ⟨hr, -⟩ | ⟨-, v, -, rfl⟩ := execTread_next ht
    · exact absurd ⟨.inr (.inr ⟨j, rfl⟩), hr⟩ hhold
    · exact ⟨v, s.acc, s.accv, rfl⟩
  | stat =>
    cases ht
    exact ⟨s.status, s.acc, s.accv, rfl⟩

/-- Settles O36: an illegal word is answered by its decoding alone; a legal one by the first of its two
tests that fires; and past both there is a next state, by the invariant, and it is an OK answer. -/
theorem orderOfJudgement : Obligations.OrderOfJudgement := by
  intro w s h
  cases hw : decode w with
  | error e => exact executeWord_error hw s
  | ok i =>
    simp only [executeWord_ok hw]
    split_ifs with hseed hhold
    · exact exec_of_noSeedFires hseed
    · exact h.exec_of_holdFires hseed hhold
    · obtain ⟨t, ht⟩ := h.exists_executeWord_next w
      rw [executeWord_ok hw] at ht
      obtain ⟨res, acc, accv, rfl⟩ := exec_answered hseed hhold ht
      exact ⟨res, acc, accv, ht⟩

end Sys2Proof.Machine
end

section
/-! SUPPORT. Precise errors, and that no step stops (spec/60_exceptions.md R84, R91). -/

namespace Sys2Proof.Machine

/-- Settles O38: of the three effects a word can have, the hold appends no response, an OK answer has
`ST = 0`, and the error that is left sets `ERR` and answers `RES = 0`. -/
theorem errorsArePrecise : Obligations.ErrorsArePrecise := by
  intro w s t r ht hrspq hst
  cases executeWord_effect ht with
  | held _ => exact absurd (List.self_eq_append_right.1 hrspq) (List.cons_ne_nil r [])
  | raised e _ =>
    obtain rfl : rspWord (errorStatus e) 0#16 = r :=
      List.singleton_inj.1 (List.append_cancel_left hrspq)
    exact ⟨raise_eq e s, resField_rspWord _ _⟩
  | answered res acc accv =>
    obtain rfl : rspWord .ok res = r := List.singleton_inj.1 (List.append_cancel_left hrspq)
    exact absurd (stField_rspWord .ok res) hst

/-- EXEC's turn is idle or executes a word, which has a next state (R12, R19). -/
theorem BlockInv.exists_execTurn_next {s : State} (h : BlockInv s) :
    ∃ t, Machine.execTurn s = .next t := by
  cases hq : s.cmdq with
  | nil => exact ⟨s, execTurn_empty hq⟩
  | cons w ws =>
    rw [execTurn_cons hq]
    exact h.exists_executeWord_next w

/-- Settles O47: a step is a turn on a state of the invariant, and only EXEC's turn reads a place. -/
theorem noStepStops : Obligations.NoStepStops := by
  intro mode pick s h
  rw [stepIn_eq]
  obtain ⟨-, -, hturn⟩ | ⟨-, -, hturn⟩ | ⟨-, -, hturn⟩ | ⟨-, -, hturn⟩ | ⟨a, -, -, hturn⟩ :=
    takeTurn_cases mode (s.turn pick) s.turnTaken
  · exact ⟨_, hturn⟩
  · exact ⟨_, hturn⟩
  · exact ⟨_, hturn⟩
  · rw [hturn]
    exact h.turnTaken.exists_execTurn_next
  · exact ⟨_, hturn⟩

end Sys2Proof.Machine
end

section
/-! SUPPORT. HOST's turns, and the turns while `RST` is asserted (spec/70_reset_and_hazards.md R97, R99,
R101). -/

namespace Sys2Proof.Machine

/-- A take on an empty `RSPQ` removes nothing (log 11). -/
theorem hostTurn_take_of_empty {s : State} (h : s.rspq = []) : hostTurn .take s = s := by
  rw [hostTurn, h, List.tail_nil, ← h]

/-- Settles O44: where `RST` is not asserted HOST's turn is its action. -/
theorem hostTurns : Obligations.HostTurns := by
  refine fun mode s hr => ⟨fun w => takeTurn_host hr mode (.send w), fun r rs hq => ?_, fun hq => ?_,
    takeTurn_host hr mode .assertRst, takeTurn_host hr mode .releaseRst⟩
  · rw [takeTurn_host hr, hostTurn, hq, List.tail_cons]
  · rw [takeTurn_host hr, hostTurn_take_of_empty hq]

theorem takeTurn_release {s : State} (hr : s.rst = true) (mode : TableInit) :
    takeTurn mode (.host .releaseRst) s = .next (releaseReset mode s) :=
  if_pos hr

/-- While `RST` is asserted every turn but the release is empty (log 6). -/
theorem takeTurn_of_asserted {s : State} {u : Turn} (hr : s.rst = true) (hu : u ≠ .host .releaseRst)
    (mode : TableInit) : takeTurn mode u s = .next s := by
  obtain ⟨-, hrel, -⟩ | ⟨-, -, hturn⟩ | ⟨hlow, -⟩ | ⟨hlow, -⟩ | ⟨a, hlow, -⟩ :=
    takeTurn_cases mode u s
  · exact absurd hrel hu
  · exact hturn
  all_goals exact absurd (hlow.symm.trans hr) Bool.false_ne_true

/-- Settles O21: the release is the one turn that does anything, and it keeps the order of turns
only. -/
theorem resetDiscardsAll : Obligations.ResetDiscardsAll := by
  refine fun mode pick s hr => ⟨fun hrel => ?_, fun hother => ?_⟩
  · rw [stepIn_eq, hrel, takeTurn_release (by exact hr)]
    rfl
  · rw [stepIn_eq, takeTurn_of_asserted (by exact hr) hother]
    rfl

end Sys2Proof.Machine
end

section
/-! SUPPORT. What no step but the release of `RST` takes back (spec/70_reset_and_hazards.md R97): the two
flags and `GIDX` turn by turn, and with them, by the invariant, `READY` and the entries. -/

namespace Sys2Proof.Machine

/-! ## Once `ACC` holds a value it keeps one -/

theorem accAfter_isSome {acc : Option U16} (h : acc.isSome = true) (i : Instr) :
    (accAfter acc i).isSome = true := by
  cases i with
  | seed a => rfl
  | feed b => exact Option.isSome_map.trans h
  | update | read | tread | stat => exact h

theorem StreamRun.acc_isSome {s t : State} {ws rs : List U32} (hst : StreamRun s t ws rs)
    (h : s.acc.isSome = true) : t.acc.isSome = true := by
  rw [hst.acc]
  exact List.foldlRecOn (motive := fun acc => acc.isSome = true) _ accAfter h
    fun _ hacc i _ => accAfter_isSome hacc i

/-! ## The flags and `GIDX`, turn by turn -/

/-- From `s` to `t` neither flag is cleared and `GIDX` is not lowered (R16, R19). -/
structure Retains (s t : State) : Prop where
  err : s.err = true → t.err = true
  accv : s.accv = true → t.accv = true
  gidx : s.gidx.toNat ≤ t.gidx.toNat

theorem Retains.refl (s : State) : Retains s s :=
  ⟨id, id, le_rfl⟩

/-- GEN's step only raises `GIDX` (R58). -/
theorem gidx_le_genStep (s : State) : s.gidx.toNat ≤ (genStep s).gidx.toNat := by
  by_cases hlt : s.gidx.toNat < 256
  · rw [genStep_gidx_toNat hlt]
    exact Nat.le_succ _
  · rw [genStep_of_not_lt hlt]

theorem Retains.genStep (s : State) : Retains s (genStep s) :=
  ⟨(genStep_err s).trans, (genStep_accv s).trans, gidx_le_genStep s⟩

/-- A word sets `ERR` or keeps it. -/
theorem executeWord_keeps_err {w : U32} {s t : State} (ht : executeWord w s = .next t)
    (h : s.err = true) : t.err = true := by
  cases executeWord_effect ht with
  | held _ => exact h
  | raised e _ => exact raise_err e s
  | answered res acc accv => exact h

theorem BlockInv.retains_execTurn {s t : State} (h : BlockInv s)
    (ht : Machine.execTurn s = .next t) : Retains s t := by
  have hinv := h.execTurn ht
  obtain ⟨-, hgidx⟩ := execTurn_table_gidx ht
  cases hq : s.cmdq with
  | nil =>
    cases (execTurn_empty hq).symm.trans ht
    exact .refl s
  | cons w ws =>
    rw [execTurn_cons hq] at ht
    obtain ⟨_, _, hrun⟩ := StreamRun.exists_of_executeWord h hq ht
    refine ⟨executeWord_keeps_err ht, fun hv => ?_, hgidx ▸ le_rfl⟩
    rw [hinv.accvIff]
    exact hrun.acc_isSome (h.accvIff ▸ hv)

/-- HOST's turn reaches the queues and `RST` only (R101). -/
theorem Retains.hostTurn (a : HostAction) (s : State) : Retains s (hostTurn a s) := by
  cases a <;> exact ⟨id, id, le_rfl⟩

theorem BlockInv.retains_takeTurn {mode : TableInit} {u : Turn} {s t : State} (h : BlockInv s)
    (hu : s.rst = true → u ≠ .host .releaseRst) (ht : Machine.takeTurn mode u s = .next t) :
    Retains s t := by
  obtain ⟨hr, hrel, -⟩ | ⟨-, -, hturn⟩ | ⟨-, -, hturn⟩ | ⟨-, -, hturn⟩ | ⟨a, -, -, hturn⟩ :=
    takeTurn_cases mode u s
  · exact absurd hrel (hu hr)
  · cases hturn.symm.trans ht
    exact .refl s
  · cases hturn.symm.trans ht
    exact .genStep s
  · exact h.retains_execTurn (hturn.symm.trans ht)
  · cases hturn.symm.trans ht
    exact .hostTurn a s

/-! ## `READY` and the entries -/

/-- `GIDX` at its highest value stays there. -/
theorem Retains.ready {s t : State} (hst : Retains s t) (ht : BlockInv t) (hr : s.ready = true) :
    t.ready = true := by
  refine Bool.of_not_eq_false fun hnot => ?_
  have hle := hst.gidx
  rw [ready_iff.1 hr] at hle
  exact absurd (ht.gidx_lt_of_not_ready hnot) (Nat.not_lt.2 hle)

/-- The entries that hold a value are those below `GIDX`. -/
theorem Retains.entry {s t : State} (hst : Retains s t) (hs : BlockInv s) (ht : BlockInv t) {i : U8}
    {v : U16} (hv : s.entry i = some v) : t.entry i = some v := by
  have hle := hst.gidx
  rw [hs.tableFilled i] at hv
  split_ifs at hv with hlt
  rw [ht.tableFilled i, if_pos (hlt.trans_le hle), hv]

/-- Settles O22: every turn but the release retains the flags and `GIDX`, which bound the rest. -/
theorem onlyReleaseClears : Obligations.OnlyReleaseClears := by
  intro mode pick s t h hstep hrel
  have hst : Retains s t := by
    obtain ⟨herr, haccv, hgidx⟩ := h.turnTaken.retains_takeTurn (by exact hrel) hstep
    exact ⟨herr, haccv, hgidx⟩
  have ht := h.stepIn hstep
  exact ⟨hst.err, hst.accv, hst.ready ht, hst.gidx, fun _ _ => hst.entry h ht⟩

end Sys2Proof.Machine
end

section
/-! SUPPORT. Stream commands on a ready block: where each finds a value in `ACC`, all are answered OK and
`ERR` is kept, however many streams they come from (spec/70_reset_and_hazards.md R103). -/

namespace Sys2Proof.Machine

@[simp] theorem streamCommand_encode_seed (a : U16) :
    streamCommand (encode (.seed a)) = some (.seed a) := by
  rw [streamCommand, decode_encode]

@[simp] theorem streamCommand_encode_feed (b : U8) :
    streamCommand (encode (.feed b)) = some (.feed b) := by
  rw [streamCommand, decode_encode]

@[simp] theorem streamCommand_encode_read : streamCommand (encode .read) = some .read := by
  rw [streamCommand, decode_encode]

theorem accResponse_eq_ok_iff {acc : Option U16} {v : U16} :
    accResponse acc = rspWord .ok v ↔ acc = some v := by
  constructor
  · intro h
    have hval := congrArg okValue h
    cases acc with
    | none => simp [accResponse] at hval
    | some a => simpa [accResponse] using hval
  · rintro rfl
    rfl

/-- A stream command that leaves a value in `ACC` answers it, with `READY` (R76 to R78). -/
theorem BlockInv.exec_streamCommand {s : State} {i : Instr} {v : U16} (h : BlockInv s)
    (hr : s.ready = true) (hi : streamCommand (encode i) = some i) (hv : accAfter s.acc i = some v) :
    exec i s = .next (respond .ok v { s with acc := some v, accv := true }) := by
  cases i with
  | seed a =>
    cases hv
    exact seedLoadsAcc v s
  | feed b =>
    obtain ⟨a, ha, rfl⟩ := Option.map_eq_some_iff.1 hv
    have haccv := h.accv_of_acc ha
    rw [feedFoldsByte b a s h hr haccv ha, ← haccv]
    rfl
  | read =>
    have ha : s.acc = some v := hv
    have haccv := h.accv_of_acc ha
    rw [readAnswersAcc v s haccv ha, ← haccv, ← ha]
    rfl
  | update | tread | stat => simp [streamCommand] at hi

/-- EXEC's turns in a row on stream commands that all answer OK. -/
theorem Pending.exists_runIn_streamCommands (mode : TableInit) (pick : Nat → Turn) {is : List Instr}
    {vs : List U16} {s : State} (h : Pending s (is.map encode)) (hr : s.ready = true)
    (hp : s.plan = List.replicate is.length .exec)
    (his : ∀ i ∈ is, streamCommand (encode i) = some i)
    (hvs : streamResponses s.acc is = vs.map (rspWord .ok)) :
    ∃ t, runIn mode pick is.length s = .next t ∧ t.err = s.err ∧ t.acc = is.foldl accAfter s.acc ∧
      t.rspq = s.rspq ++ vs.map (rspWord .ok) := by
  induction is generalizing s vs with
  | nil =>
    rw [← hvs]
    exact ⟨s, rfl, rfl, rfl, (List.append_nil _).symm⟩
  | cons i is ih =>
    obtain ⟨v, vs, rfl, hv, hvs⟩ := List.map_eq_cons_iff.1 hvs.symm
    have hv : accAfter s.acc i = some v := accResponse_eq_ok_iff.1 hv.symm
    obtain ⟨hi, his⟩ := List.forall_mem_cons.1 his
    have hstep : stepIn mode pick s =
        .next (respond .ok v { s.turnTaken with acc := some v, accv := true }) := by
      rw [stepIn_exec h.rst hp h.cmdq, executeWord_ok (decode_encode i),
        h.inv.turnTaken.exec_streamCommand hr hi hv]
    have hpending : Pending (respond .ok v { s.turnTaken with acc := some v, accv := true })
        (is.map encode) :=
      ⟨h.inv.of_same_table rfl rfl rfl, h.rst, congrArg List.tail h.cmdq⟩
    obtain ⟨t, hrun, herr, hacc, hrspq⟩ :=
      ih hpending hr (congrArg List.tail hp) his (hv ▸ hvs.symm)
    refine ⟨t, (runIn_succ_of_next _ hstep).trans hrun, herr, ?_, ?_⟩
    · rw [hacc, List.foldl_cons, hv]
      rfl
    · rw [hrspq, respond_rspq, List.append_assoc]
      rfl

/-- Settles O53: the five commands are stream commands, and from the first `SEED` on `ACC` holds a
value, which the second one replaces. -/
theorem interleavedStreamsDamage : Obligations.InterleavedStreamsDamage := by
  refine ⟨fun mode pick s a a' b b' h hready hr hp hq => ?_, by decide, by decide⟩
  exact Pending.exists_runIn_streamCommands mode pick
    (is := [.seed a, .feed b, .seed a', .feed b', .read])
    (vs := [a, upd a b, a', upd a' b', upd a' b'])
    ⟨h, hr, hq⟩ hready hp (by simp) rfl

end Sys2Proof.Machine
end

section
/-! SUPPORT. Runs under fair turns (spec/70_reset_and_hazards.md R102, R107): a bound that every step keeps
and that the turn which comes again and again lowers is brought to 0. -/

namespace Sys2Proof.Machine

/-! ## Progress by a turn that comes again and again -/

/-- A run goes on from where its first steps end. -/
theorem runIn_add_of_next {mode : TableInit} {pick : Nat → Turn} {m : Nat} {s t : State}
    (h : runIn mode pick m s = .next t) (n : Nat) :
    runIn mode pick (m + n) s = runIn mode pick n t := by
  induction m generalizing s with
  | zero =>
    cases h
    rw [Nat.zero_add]
  | succ m ih =>
    obtain ⟨u, hu, hrest⟩ := exists_stepIn_of_runIn_succ h
    rw [Nat.succ_add, runIn_succ_of_next _ hu, ih hrest]

/-- Every step is a next state, keeps `Inv` and does not raise `bound`; the turn `u` lowers it. -/
def Progresses (mode : TableInit) (pick : Nat → Turn) (u : Turn) (Inv : State → Prop)
    (bound : State → Nat) : Prop :=
  ∀ s, Inv s → ∃ t, stepIn mode pick s = .next t ∧ Inv t ∧ t.tick = s.tick + 1 ∧
    bound t ≤ bound s ∧ (pick s.tick = u → 0 < bound s → bound t < bound s)

/-- The `u` turn at `m` is waited for until a step lowers the bound, then the next one. -/
theorem Progresses.exists_runIn_of_turn {mode : TableInit} {pick : Nat → Turn} {u : Turn}
    {Inv : State → Prop} {bound : State → Nat} (hprog : Progresses mode pick u Inv bound)
    (hrec : Recurs pick u) {m : Nat} {s : State} (hm : s.tick ≤ m) (hpick : pick m = u)
    (hs : Inv s) : ∃ n t, runIn mode pick n s = .next t ∧ Inv t ∧ bound t = 0 := by
  obtain hzero | hpos := Nat.eq_zero_or_pos (bound s)
  · exact ⟨0, s, rfl, hs, hzero⟩
  obtain ⟨t, hstep, ht, htick, hle, hlower⟩ := hprog s hs
  by_cases hlt : bound t < bound s
  · obtain ⟨m', hm', hpick'⟩ := hrec t.tick
    obtain ⟨n, v, hrun, hv⟩ := hprog.exists_runIn_of_turn hrec hm' hpick' ht
    exact ⟨n + 1, v, (runIn_succ_of_next n hstep).trans hrun, hv⟩
  · have hne : s.tick ≠ m := fun heq => hlt (hlower (heq ▸ hpick) hpos)
    obtain ⟨n, v, hrun, hv⟩ :=
      hprog.exists_runIn_of_turn hrec (by omega : t.tick ≤ m) hpick ht
    exact ⟨n + 1, v, (runIn_succ_of_next n hstep).trans hrun, hv⟩
termination_by (bound s, m - s.tick)
decreasing_by
  · exact Prod.Lex.left _ _ hlt
  · rw [Nat.le_antisymm hle (Nat.not_lt.1 hlt)]
    exact Prod.Lex.right _ (by omega)

theorem Progresses.exists_runIn {mode : TableInit} {pick : Nat → Turn} {u : Turn}
    {Inv : State → Prop} {bound : State → Nat} (hprog : Progresses mode pick u Inv bound)
    (hrec : Recurs pick u) {s : State} (hs : Inv s) :
    ∃ n t, runIn mode pick n s = .next t ∧ Inv t ∧ bound t = 0 := by
  obtain ⟨m, hm, hpick⟩ := hrec s.tick
  exact hprog.exists_runIn_of_turn hrec hm hpick hs

/-! ## A block whose turns are all free -/

/-- A block that keeps its invariant, not in reset, with no turn planned. -/
structure Running (s : State) : Prop where
  inv : BlockInv s
  rst : s.rst = false
  plan : s.plan = []

/-- Entries of the table that GEN has yet to write. -/
def entriesLeft (s : State) : Nat := 256 - s.gidx.toNat

@[simp] theorem genStep_tick (s : State) : (genStep s).tick = s.tick := by
  unfold genStep; split <;> rfl

/-- EXEC's turn touches neither `RST` nor the order of turns. -/
theorem execTurn_rst_plan_tick {s t : State} (ht : execTurn s = .next t) :
    t.rst = s.rst ∧ t.plan = s.plan ∧ t.tick = s.tick := by
  cases hq : s.cmdq with
  | nil =>
    cases (execTurn_empty hq).symm.trans ht
    exact ⟨rfl, rfl, rfl⟩
  | cons w ws =>
    obtain ⟨-, -, hframe⟩ := noCommandWritesTable w s t ((execTurn_cons hq).symm.trans ht)
    exact hframe

/-- Only HOST's assertion changes an `RST` that is not asserted, and no turn the order of turns. -/
theorem takeTurn_rst_plan_tick {mode : TableInit} {u : Turn} {s t : State} (hr : s.rst = false)
    (hu : u ≠ .host .assertRst) (ht : takeTurn mode u s = .next t) :
    t.rst = false ∧ t.plan = s.plan ∧ t.tick = s.tick := by
  cases u with
  | gen =>
    cases (takeTurn_gen hr mode).symm.trans ht
    exact ⟨(genStep_rst s).trans hr, genStep_plan s, genStep_tick s⟩
  | exec =>
    obtain ⟨hrst, hframe⟩ := execTurn_rst_plan_tick ((takeTurn_exec hr mode).symm.trans ht)
    exact ⟨hrst.trans hr, hframe⟩
  | host a =>
    cases (takeTurn_host hr mode a).symm.trans ht
    cases a with
    | assertRst => exact absurd rfl hu
    | send | take | releaseRst => exact ⟨hr, rfl, rfl⟩

namespace Running

variable {mode : TableInit} {pick : Nat → Turn} {s t : State}

theorem stepIn_eq (h : Running s) :
    stepIn mode pick s = takeTurn mode (pick s.tick) s.turnTaken := by
  rw [Machine.stepIn_eq, turn_nil h.plan]

/-- A step other than HOST's assertion of `RST` is a next state, and the block runs on. -/
theorem exists_stepIn (h : Running s) (hpick : pick s.tick ≠ .host .assertRst) :
    ∃ t, stepIn mode pick s = .next t ∧ Running t ∧ t.tick = s.tick + 1 := by
  obtain ⟨t, ht⟩ := noStepStops mode pick s h.inv
  obtain ⟨hrst, hplan, htick⟩ :=
    takeTurn_rst_plan_tick (by exact h.rst) hpick (h.stepIn_eq.symm.trans ht)
  exact ⟨t, ht, ⟨h.inv.stepIn ht, hrst, hplan.trans (congrArg List.tail h.plan)⟩, htick⟩

theorem stepIn_gen (h : Running s) (hpick : pick s.tick = .gen) :
    stepIn mode pick s = .next (genStep s.turnTaken) := by
  rw [h.stepIn_eq, hpick, takeTurn_gen (by exact h.rst)]

theorem stepIn_exec (h : Running s) (hpick : pick s.tick = .exec) :
    stepIn mode pick s = execTurn s.turnTaken := by
  rw [h.stepIn_eq, hpick, takeTurn_exec (by exact h.rst)]

/-! ## GEN's progress -/

theorem ready_of_entriesLeft (h : Running s) (hleft : entriesLeft s = 0) : s.ready = true :=
  Bool.of_not_eq_false fun hnot =>
    Nat.sub_ne_zero_of_lt (h.inv.gidx_lt_of_not_ready hnot) hleft

/-- No step adds to the entries left, and GEN's step takes one off. -/
theorem entriesLeft_stepIn (h : Running s) (ht : stepIn mode pick s = .next t) :
    entriesLeft t ≤ entriesLeft s ∧
      (pick s.tick = .gen → 0 < entriesLeft s → entriesLeft t < entriesLeft s) := by
  constructor
  · obtain ⟨-, -, -, hgidx, -⟩ := onlyReleaseClears mode pick s t h.inv ht
      fun hr => absurd (h.rst.symm.trans hr) Bool.false_ne_true
    exact Nat.sub_le_sub_left hgidx 256
  · intro hpick hpos
    cases (h.stepIn_gen hpick).symm.trans ht
    have hlt : s.gidx.toNat < 256 := Nat.lt_of_sub_pos hpos
    have hgidx : (genStep s.turnTaken).gidx.toNat = s.gidx.toNat + 1 := genStep_gidx_toNat hlt
    rw [entriesLeft, entriesLeft, hgidx]
    omega

theorem progresses_gen (hpick : ∀ n, pick n ≠ .host .assertRst) :
    Progresses mode pick .gen Running entriesLeft := by
  intro s h
  obtain ⟨t, ht, hrun, htick⟩ := h.exists_stepIn (hpick s.tick)
  exact ⟨t, ht, hrun, htick, h.entriesLeft_stepIn ht⟩

end Running

/-- Settles O54: GEN's turns bring the entries left to none. -/
theorem fairGenReachesReady : Obligations.FairGenReachesReady := by
  intro mode pick s h hr hp hpick hgen
  obtain ⟨n, t, hrun, ht, hleft⟩ := (Running.progresses_gen hpick).exists_runIn hgen ⟨h, hr, hp⟩
  exact ⟨n, t, hrun, ht.ready_of_entriesLeft hleft⟩

end Sys2Proof.Machine
end

section
/-! SUPPORT. The end of a run with HOST quiet (spec/70_reset_and_hazards.md R102, R107): GEN completes the
table, and from then on each of EXEC's turns answers a command. -/

namespace Sys2Proof.Machine

/-! ## What GEN's and EXEC's turns do to the queues -/

/-- The responses waiting and the commands still to be answered, counted together. -/
def exchanges (s : State) : Nat := s.rspq.length + s.cmdq.length

/-- EXEC's turn leaves both queues alone, with no command or at a hold, or answers the head of `CMDQ`
(R9, R22). -/
theorem execTurn_queues {s t : State} (ht : execTurn s = .next t) :
    (t.cmdq = s.cmdq ∧ t.rspq = s.rspq ∧ (s.cmdq = [] ∨ s.ready = false)) ∨
      ∃ w r, s.cmdq = w :: t.cmdq ∧ t.rspq = s.rspq ++ [r] := by
  cases hq : s.cmdq with
  | nil =>
    cases (execTurn_empty hq).symm.trans ht
    exact .inl ⟨hq, rfl, .inl rfl⟩
  | cons w ws =>
    obtain ⟨rfl, hr⟩ | ⟨hq', r, -, hrspq⟩ :=
      oneResponsePerCommand w s t ((execTurn_cons hq).symm.trans ht)
    · exact .inl ⟨hq, rfl, .inr hr⟩
    · exact .inr ⟨w, r, by rw [hq', hq, List.tail_cons], hrspq⟩

namespace Running

variable {mode : TableInit} {pick : Nat → Turn} {s t : State}

/-- `execTurn_queues` for a step that is GEN's or EXEC's; GEN's leaves the queues alone. -/
theorem queues_stepIn (h : Running s) (hpick : pick s.tick = .gen ∨ pick s.tick = .exec)
    (ht : stepIn mode pick s = .next t) :
    (t.cmdq = s.cmdq ∧ t.rspq = s.rspq ∧
        (pick s.tick = .exec → s.cmdq = [] ∨ s.ready = false)) ∨
      ∃ w r, s.cmdq = w :: t.cmdq ∧ t.rspq = s.rspq ++ [r] := by
  obtain hgen | hexec := hpick
  · cases (h.stepIn_gen hgen).symm.trans ht
    refine .inl ⟨genStep_cmdq _, genStep_rspq _, fun hexec => ?_⟩
    cases hgen.symm.trans hexec
  · obtain ⟨hcmdq, hrspq, hidle⟩ | hanswered :=
      execTurn_queues ((h.stepIn_exec hexec).symm.trans ht)
    · exact .inl ⟨hcmdq, hrspq, fun _ => hidle⟩
    · exact .inr hanswered

/-! ## EXEC's progress -/

/-- Each command makes way for one response. -/
theorem exchanges_stepIn (h : Running s) (hpick : pick s.tick = .gen ∨ pick s.tick = .exec)
    (ht : stepIn mode pick s = .next t) : exchanges t = exchanges s := by
  obtain ⟨hcmdq, hrspq, -⟩ | ⟨w, r, hcmdq, hrspq⟩ := h.queues_stepIn hpick ht
  · rw [exchanges, exchanges, hcmdq, hrspq]
  · rw [exchanges, exchanges, hcmdq, hrspq, List.length_append, List.length_singleton,
      List.length_cons]
    omega

/-- With `READY` no command holds: EXEC's step takes one off. -/
theorem cmdq_length_stepIn (h : Running s) (hr : s.ready = true)
    (hpick : pick s.tick = .gen ∨ pick s.tick = .exec) (ht : stepIn mode pick s = .next t) :
    t.cmdq.length ≤ s.cmdq.length ∧
      (pick s.tick = .exec → 0 < s.cmdq.length → t.cmdq.length < s.cmdq.length) := by
  obtain ⟨hcmdq, -, hidle⟩ | ⟨w, r, hcmdq, -⟩ := h.queues_stepIn hpick ht
  · refine ⟨hcmdq ▸ le_rfl, fun hexec hpos => ?_⟩
    obtain hnil | hnot := hidle hexec
    · exact absurd hnil (List.ne_nil_of_length_pos hpos)
    · exact absurd (hnot.symm.trans hr) Bool.false_ne_true
  · rw [hcmdq, List.length_cons]
    exact ⟨Nat.le_succ _, fun _ _ => Nat.lt_succ_self _⟩

/-- A step that is GEN's or EXEC's runs on and keeps the count of exchanges. -/
theorem exists_stepIn_exchanges (h : Running s)
    (hpick : pick s.tick = .gen ∨ pick s.tick = .exec) :
    ∃ t, stepIn mode pick s = .next t ∧ Running t ∧ exchanges t = exchanges s ∧
      t.tick = s.tick + 1 := by
  have hne : pick s.tick ≠ .host .assertRst := by
    obtain h | h := hpick <;> rw [h] <;> nofun
  obtain ⟨t, ht, hrun, htick⟩ := h.exists_stepIn hne
  exact ⟨t, ht, hrun, h.exchanges_stepIn hpick ht, htick⟩

theorem progresses_gen_exchanges (n : Nat) (hpick : ∀ k, pick k = .gen ∨ pick k = .exec) :
    Progresses mode pick .gen (fun s => Running s ∧ exchanges s = n) entriesLeft := by
  rintro s ⟨h, rfl⟩
  obtain ⟨t, ht, hrun, hcount, htick⟩ := h.exists_stepIn_exchanges (hpick s.tick)
  exact ⟨t, ht, ⟨hrun, hcount⟩, htick, h.entriesLeft_stepIn ht⟩

theorem progresses_exec (n : Nat) (hpick : ∀ k, pick k = .gen ∨ pick k = .exec) :
    Progresses mode pick .exec (fun s => Running s ∧ exchanges s = n ∧ s.ready = true)
      (fun s => s.cmdq.length) := by
  rintro s ⟨h, rfl, hr⟩
  obtain ⟨t, ht, hrun, hcount, htick⟩ := h.exists_stepIn_exchanges (hpick s.tick)
  obtain ⟨-, hready⟩ := readyTableIsConstant mode pick s t hr ht
    fun hrst => absurd (h.rst.symm.trans hrst) Bool.false_ne_true
  exact ⟨t, ht, ⟨hrun, hcount, hready⟩, htick, h.cmdq_length_stepIn hr (hpick s.tick) ht⟩

end Running

/-- Settles O55: GEN's turns complete the table, then EXEC's empty `CMDQ`; at its end all the exchanges
counted are responses. -/
theorem finiteRunEnds : Obligations.FiniteRunEnds := by
  intro mode pick s h hr hp hpick hgen hexec
  obtain ⟨m, t, hrun, ⟨ht, hcount⟩, hleft⟩ :=
    (Running.progresses_gen_exchanges (exchanges s) hpick).exists_runIn hgen
      ⟨⟨h, hr, hp⟩, rfl⟩
  obtain ⟨n, u, hrun', ⟨-, hcount', hready⟩, hempty⟩ :=
    (Running.progresses_exec (exchanges s) hpick).exists_runIn hexec
      ⟨ht, hcount, ht.ready_of_entriesLeft hleft⟩
  have hgidx := ready_iff.1 hready
  have hcmdq : u.cmdq = [] := List.eq_nil_of_length_eq_zero hempty
  refine ⟨m + n, u, (runIn_add_of_next hrun n).trans hrun', ⟨hcmdq, fun _ => hgidx⟩, hgidx, ?_⟩
  rw [exchanges, hcmdq] at hcount'
  exact hcount'

end Sys2Proof.Machine
end

section
/-! SUPPORT. The reference words and values of spec/95_test_vectors.md (V13, E6 and V8). -/

namespace Sys2Proof.Machine

/-- Settles O6: each word is its command's word (R42), so by R46 it decodes to that command. -/
theorem writtenWordsDecode : Obligations.WrittenWordsDecode := by
  unfold Obligations.WrittenWordsDecode
  simp only [decode_eq_ok_iff]
  decide

/-- Settles O18: nine folds evaluated from each seed, as V6 and V7 lay them out. -/
theorem knownAnswers : Obligations.KnownAnswers :=
  ⟨by decide, by decide, by decide⟩

end Sys2Proof.Machine
end
